-- ==== Sys2Proof/Word.lean ====
section
/-! DEFINITION. The word types of the block (spec/00_scope.md R5, section 5). Every quantity is unsigned. -/

namespace Sys2Proof

/-- One byte: every data path but the DMA block is this wide (00_scope.md R5). -/
abbrev Byte := BitVec 8

/-- An address of the PPU bus, 14 bits (10_state.md R10, 20_memory.md R50). -/
abbrev BusAddr := BitVec 14

/-- A sparse byte memory: (address, byte) pairs, addresses strictly rising, no pair holding the byte an unlisted
address reads as (`Memory.wf` in Machine/Memory.lean). -/
abbrev Memory := List Host.Cell

end Sys2Proof
end

