-- ==== Sys2Proof/Config.lean ====
section
/-! DEFINITION. What an implementation of the block fixes: the parameter table of spec/00_scope.md section 4.
Nothing here is a free value: the spec leaves no value open in a state from which the block goes on. -/

namespace Sys2Proof

/-- The two name-table mirroring modes (10_state.md R28; there is no third, 93_implementation_defined.md U14). -/
inductive Mirroring where
  | horizontal
  | vertical
  deriving DecidableEq, Repr

/-- The parameters with a default of 00_scope.md section 4: bit positions (92_eei_decisions.md D5, D6) and the
initial contents of the three writable memories (D8). A statement over every `Config` does not rest on the defaults. -/
structure Config where
  /-- `CTRL_INC_BIT`: the bit of `ctrl` that selects the address step. -/
  ctrlIncBit : Fin 8
  /-- `CTRL_NMI_BIT`: the interrupt-enable bit of `ctrl`. -/
  ctrlNmiBit : Fin 8
  /-- `STATUS_VBLANK_BIT`. -/
  statusVblankBit : Fin 8
  /-- `STATUS_SPRITE0_BIT`. -/
  statusSprite0Bit : Fin 8
  /-- `STATUS_OVERFLOW_BIT`: nothing in the block writes or tests it (10_state.md R19). -/
  statusOverflowBit : Fin 8
  /-- `RAM_INIT`. -/
  ramInit : Memory
  /-- `PALETTE_INIT`. -/
  paletteInit : Memory
  /-- `OAM_INIT`. -/
  oamInit : Memory
  deriving DecidableEq, Repr

/-- The defaults of 00_scope.md section 4 (general knowledge by the spec's own mark, D5, D6; zero memories, D8). -/
def Config.default : Config where
  ctrlIncBit := 2
  ctrlNmiBit := 7
  statusVblankBit := 7
  statusSprite0Bit := 6
  statusOverflowBit := 5
  ramInit := []
  paletteInit := []
  oamInit := []

/-- `CYCLES_PER_SCANLINE`. -/
abbrev cyclesPerScanline : Nat := 341
/-- `SCANLINES_PER_FRAME`. -/
abbrev scanlinesPerFrame : Nat := 262
/-- `VBLANK_SCANLINE`. -/
abbrev vblankScanline : Nat := 241
/-- `RAM_SIZE`. -/
abbrev ramSize : Nat := 2048
/-- `PALETTE_SIZE`. -/
abbrev paletteSize : Nat := 32
/-- `OAM_SIZE`; also the length of the DMA block (42_sprite_memory.md R144, R146). -/
abbrev oamSize : Nat := 256
/-- `INC_SMALL`. -/
abbrev incSmall : Nat := 1
/-- `INC_LARGE`. -/
abbrev incLarge : Nat := 32

end Sys2Proof
end

