-- ==== Sys2Proof/Machine/Memory.lean ====
section
/-! DEFINITION. The sparse byte memories of spec/10_state.md R25 in canonical form: reading, writing, loading a byte
sequence, and the form itself. -/

namespace Sys2Proof

/-- What an unlisted address reads as: 0x00, the default of `RAM_INIT`, `PALETTE_INIT` and `OAM_INIT`
(10_state.md R34, 92_eei_decisions.md D8; notes/assumptions/7.md). -/
def Memory.unlisted : Byte := 0

/-- One byte read. -/
def Memory.read : Memory → Nat → Byte
  | [], _ => Memory.unlisted
  | (k, c) :: m, a => if k = a then c else Memory.read m a

/-- One byte written, keeping the addresses rising and no unlisted value listed. -/
def Memory.write : Memory → Nat → Byte → Memory
  | [], a, b => if b = Memory.unlisted then [] else [(a, b)]
  | (k, c) :: m, a, b =>
    if k < a then (k, c) :: Memory.write m a b
    else if k = a then (if b = Memory.unlisted then m else (a, b) :: m)
    else (if b = Memory.unlisted then (k, c) :: m else (a, b) :: (k, c) :: m)

/-- Canonical from `lo` up: keys at least `lo`, strictly rising, no unlisted value listed. -/
def Memory.wfFrom : Nat → Memory → Bool
  | _, [] => true
  | lo, (k, c) :: m => decide (lo ≤ k) && decide (c ≠ Memory.unlisted) && Memory.wfFrom (k + 1) m

/-- The canonical form. -/
def Memory.wf (m : Memory) : Bool := Memory.wfFrom 0 m

/-- Every listed address is below `size`. -/
def Memory.below (size : Nat) (m : Memory) : Bool := m.all fun cell => decide (cell.1 < size)

/-- A byte sequence as a memory, its first byte at address `a` (construction, 70_reset_and_hazards.md R210). -/
def Memory.ofBytes : Nat → List Byte → Memory
  | _, [] => []
  | a, b :: bs =>
    if b = Memory.unlisted then Memory.ofBytes (a + 1) bs else (a, b) :: Memory.ofBytes (a + 1) bs

end Sys2Proof
end

