-- ==== Sys2Proof/Syntax.lean ====
section
/-! DEFINITION. The thirteen operations of spec/30_encoding.md R82, one constructor per row of
spec/opcode_table.json, and the raw transaction a driver presents on the ports of R80. -/

namespace Sys2Proof

/-- One operation of the block with its operand (30_encoding.md R82, R83). -/
inductive Instr where
  /-- WRITE_CTRL, 40_register_bank.md R101. -/
  | writeCtrl (din : Byte)
  /-- WRITE_MASK, R102. -/
  | writeMask (din : Byte)
  /-- READ_STATUS, R103. -/
  | readStatus
  /-- WRITE_OAM_ADDR, 42_sprite_memory.md R140. -/
  | writeOamAddr (din : Byte)
  /-- WRITE_OAM_DATA, R142. -/
  | writeOamData (din : Byte)
  /-- READ_OAM_DATA, R143. -/
  | readOamData
  /-- WRITE_SCROLL, 40_register_bank.md R104. -/
  | writeScroll (din : Byte)
  /-- WRITE_ADDR, R106. -/
  | writeAddr (din : Byte)
  /-- WRITE_DATA, 41_data_port.md R120. -/
  | writeData (din : Byte)
  /-- READ_DATA, R123. -/
  | readData
  /-- OAM_DMA, 42_sprite_memory.md R144: exactly 256 bytes (WellFormed checks it). -/
  | oamDma (block : List Byte)
  /-- TICK, 43_timing.md R160, R161. -/
  | tick (elapsed : Byte)
  /-- NMI_ACK, R162. -/
  | nmiAck
  deriving DecidableEq, Repr

/-- One transaction on the input ports `cmd`, `din`, `dma_block`, `elapsed` (30_encoding.md R80). Only the operand
port the command uses matters. `dmaBlock` may have any length here: the decoder is the boundary that refuses one that
is not 256 bytes (60_exceptions.md R187). -/
structure Transaction where
  cmd : BitVec 5
  din : Byte
  dmaBlock : List Byte
  elapsed : Byte
  deriving DecidableEq, Repr

end Sys2Proof
end

