-- ==== Sys2Proof/WellFormed.lean ====
section
/-! DEFINITION. Which terms of `Instr` are operations of the block. -/

namespace Sys2Proof

/-- The one restriction on operands: a DMA block is exactly 256 bytes (30_encoding.md R83). Every value of `din` and
of `elapsed` is legal (R84). -/
def Instr.wellFormed : Instr → Bool
  | .writeCtrl _ => true
  | .writeMask _ => true
  | .readStatus => true
  | .writeOamAddr _ => true
  | .writeOamData _ => true
  | .readOamData => true
  | .writeScroll _ => true
  | .writeAddr _ => true
  | .writeData _ => true
  | .readData => true
  | .oamDma block => decide (block.length = oamSize)
  | .tick _ => true
  | .nmiAck => true

/-- The parameter constraints of 00_scope.md section 4: the three status positions pairwise different, the two
control positions different (each below 8 by its type). -/
abbrev Config.bitsDistinct (c : Config) : Prop :=
  c.ctrlIncBit ≠ c.ctrlNmiBit ∧ c.statusVblankBit ≠ c.statusSprite0Bit ∧
    c.statusVblankBit ≠ c.statusOverflowBit ∧ c.statusSprite0Bit ≠ c.statusOverflowBit

end Sys2Proof
end

