-- ==== Sys2Proof/Decode.lean ====
section
/-! DEFINITION. Decoding a transaction (spec/30_encoding.md R81 to R84), total, rejecting by name; the encoder beside
it; and how a transaction lies in one number for the host's table words. -/

namespace Sys2Proof

/-- Why a transaction names no operation (60_exceptions.md R187). -/
inductive Reject where
  /-- A reserved command code (30_encoding.md R84). -/
  | reservedCommand (cmd : BitVec 5)
  /-- OAM_DMA with a block that is not 256 bytes (R83). -/
  | dmaBlockSize (length : Nat)
  deriving DecidableEq, Repr

/-- `cmd[4]`: 0 is format R, 1 is format S (R81). -/
def cmdGrp (c : BitVec 5) : Nat := (c.extractLsb' 4 1).toNat
/-- `cmd[3]` of format R: 0 write, 1 read. -/
def cmdRw (c : BitVec 5) : Nat := (c.extractLsb' 3 1).toNat
/-- `cmd[2:0]` of format R: the register select. -/
def cmdSel (c : BitVec 5) : Nat := (c.extractLsb' 0 3).toNat
/-- `cmd[3:0]` of format S: the function number. -/
def cmdFn (c : BitVec 5) : Nat := (c.extractLsb' 0 4).toNat

/-- Register writes by select; `status` (2) cannot be written. -/
def decodeWrite (sel : Nat) (din : Byte) : Option Instr :=
  match sel with
  | 0 => some (.writeCtrl din)
  | 1 => some (.writeMask din)
  | 3 => some (.writeOamAddr din)
  | 4 => some (.writeOamData din)
  | 5 => some (.writeScroll din)
  | 6 => some (.writeAddr din)
  | 7 => some (.writeData din)
  | _ => none

/-- Register reads by select; only `status` and the two data ports can be read. -/
def decodeRead (sel : Nat) : Option Instr :=
  match sel with
  | 2 => some .readStatus
  | 4 => some .readOamData
  | 7 => some .readData
  | _ => none

/-- System functions by number; 3 to 15 are reserved. -/
def decodeSystem (fn : Nat) (t : Transaction) : Option Instr :=
  match fn with
  | 0 => some (.oamDma t.dmaBlock)
  | 1 => some (.tick t.elapsed)
  | 2 => some .nmiAck
  | _ => none

/-- The operation a command code selects, before its operand is checked. -/
def decodeCommand (t : Transaction) : Option Instr :=
  if cmdGrp t.cmd = 0 then
    if cmdRw t.cmd = 0 then decodeWrite (cmdSel t.cmd) t.din else decodeRead (cmdSel t.cmd)
  else decodeSystem (cmdFn t.cmd) t

/-- The decoder: an operation of the block, or why there is none. -/
def decode (t : Transaction) : Except Reject Instr :=
  match decodeCommand t with
  | none => .error (.reservedCommand t.cmd)
  | some i => if i.wellFormed then .ok i else .error (.dmaBlockSize t.dmaBlock.length)

/-- The command code of each operation (the `cmd` column of R82). -/
def Instr.command : Instr → BitVec 5
  | .writeCtrl _ => 0x00
  | .writeMask _ => 0x01
  | .readStatus => 0x0A
  | .writeOamAddr _ => 0x03
  | .writeOamData _ => 0x04
  | .readOamData => 0x0C
  | .writeScroll _ => 0x05
  | .writeAddr _ => 0x06
  | .writeData _ => 0x07
  | .readData => 0x0F
  | .oamDma _ => 0x10
  | .tick _ => 0x11
  | .nmiAck => 0x12

/-- The operand bytes of each operation in port order: 0, 1 or 256 of them (R85). -/
def Instr.operand : Instr → List Byte
  | .writeCtrl din => [din]
  | .writeMask din => [din]
  | .readStatus => []
  | .writeOamAddr din => [din]
  | .writeOamData din => [din]
  | .readOamData => []
  | .writeScroll din => [din]
  | .writeAddr din => [din]
  | .writeData din => [din]
  | .readData => []
  | .oamDma block => block
  | .tick elapsed => [elapsed]
  | .nmiAck => []

/-- The encoder: the operand on its own port, the ports the command does not use at zero. -/
def encode : Instr → Transaction
  | .writeCtrl din => ⟨0x00, din, [], 0⟩
  | .writeMask din => ⟨0x01, din, [], 0⟩
  | .readStatus => ⟨0x0A, 0, [], 0⟩
  | .writeOamAddr din => ⟨0x03, din, [], 0⟩
  | .writeOamData din => ⟨0x04, din, [], 0⟩
  | .readOamData => ⟨0x0C, 0, [], 0⟩
  | .writeScroll din => ⟨0x05, din, [], 0⟩
  | .writeAddr din => ⟨0x06, din, [], 0⟩
  | .writeData din => ⟨0x07, din, [], 0⟩
  | .readData => ⟨0x0F, 0, [], 0⟩
  | .oamDma block => ⟨0x10, 0, block, 0⟩
  | .tick elapsed => ⟨0x11, 0, [], elapsed⟩
  | .nmiAck => ⟨0x12, 0, [], 0⟩

/-- Bytes as one number, the first byte in bits 7:0. -/
def packBytes : List Byte → Nat
  | [] => 0
  | b :: bs => b.toNat + 256 * packBytes bs

/-- The first `n` bytes of a number, bits 7:0 first. -/
def unpackBytes : Nat → Nat → List Byte
  | 0, _ => []
  | n + 1, w => BitVec.ofNat 8 w :: unpackBytes n (w / 256)

/-- DESIGN CHOICE, notes/assumptions/9.md: the spec gives the 5-bit code and an operand on a port of its own (R83)
and no serial layout. A table word holds the code in bits 4:0 of its first byte (bits 7:5 carry nothing: the mask of
every row of spec/opcode_table.json is 0x1F) and the operand bytes, if it gives any, in the bytes after it. Every bit
above `nbits` is zero. -/
def Transaction.ofWord (nbits w : Nat) : Transaction :=
  let u := w % 2 ^ nbits
  { cmd := BitVec.ofNat 5 u
    din := BitVec.ofNat 8 (u / 256)
    dmaBlock := unpackBytes oamSize (u / 256)
    elapsed := BitVec.ofNat 8 (u / 256) }

/-- The word that carries an operation with its operand, and how many bits it has. -/
def Instr.word (i : Instr) : Nat := packBytes (i.command.setWidth 8 :: i.operand)
/-- The bits of `Instr.word`: whole bytes. -/
def Instr.wordBits (i : Instr) : Nat := 8 * (1 + i.operand.length)

/-- The instruction the decoder reads from a table word (the host's fixed name). -/
def decodeTableWord (nbits w : Nat) : Option Instr :=
  match decode (Transaction.ofWord nbits w) with
  | .ok i => some i
  | .error _ => none

end Sys2Proof
end

