-- ==== Sys2Proof/Machine/State.lean ====
section
/-! DEFINITION. The state of the block as plain data (spec/10_state.md section 1), the driver's ports
(spec/30_encoding.md R80), the reasons a step can stop, and the state right after construction (R34). -/

namespace Sys2Proof.Machine

open Sys2Proof

/-- The four fatal conditions of 60_exceptions.md R180, each with the bus address the data-port operation used. All
are raised by WRITE_DATA or READ_DATA through `raiseFault`; each is a stop the spec itself names, so each is safe. -/
inductive Fault where
  /-- Code 1: an access in 0x3000 to 0x3EFF (R181). Safe. -/
  | mirrorWindowAccess (a : BusAddr)
  /-- Code 2: an address above 0x3FFF (R182); a 14-bit address never raises it. Safe. -/
  | addressRange (a : BusAddr)
  /-- Code 3: an access in 0x3F20 to 0x3FFF (R183). Safe: the reference may go on here (93 U2). -/
  | paletteIndexRange (a : BusAddr)
  /-- Code 4: a READ_DATA in the pattern range at or past `PATTERN_LEN` (R184). Safe. -/
  | patternIndexRange (a : BusAddr)
  deriving DecidableEq, Repr

/-- Inputs to which the spec gives no meaning. All are safe: nothing is claimed of a run that meets one. -/
inductive Refusal where
  /-- An instruction without a meaning yet; raised by an arm of `exec` only. Safe. -/
  | notModelled (mnemonic : String)
  /-- A reserved command code (30_encoding.md R84); raised by `step`. Safe. -/
  | reservedCommand (cmd : BitVec 5)
  /-- A DMA block that is not 256 bytes (60_exceptions.md R187); raised by `step` and `execOamDma`. Safe. -/
  | dmaBlockSize (length : Nat)
  /-- An operation on a halted block, which the spec leaves undefined (10_state.md R24, 60_exceptions.md R185); raised
  by every meaning. Safe. -/
  | haltedBlock
  deriving DecidableEq, Repr

/-- The non-fatal event of a WRITE_DATA in the pattern range (60_exceptions.md R186). -/
structure PatternWriteDropped where
  address : BusAddr
  value : Byte
  deriving DecidableEq, Repr

/-- The output ports of 30_encoding.md R80 as the latest operation leaves them: what it returned on `dout` or
`frame_complete`, and the event it emitted on `diag`. -/
structure Response where
  dout : Option Byte
  frameComplete : Option Bool
  diag : Option PatternWriteDropped
  deriving DecidableEq, Repr

/-- What the driver may present: an operation, or the `reset` strobe with its two arguments (30_encoding.md R80,
70_reset_and_hazards.md R210, R211). -/
inductive DriverInput where
  | operation (t : Transaction)
  | resetStrobe (pattern : List Byte) (mirroring : Mirroring)
  deriving DecidableEq, Repr

/-- Everything the spec gives the block, and the driver's inputs still to come. -/
structure State where
  /-- Implementation parameters (00_scope.md section 4); no step changes them. -/
  cfg : Config
  /-- `MIRRORING`, fixed at construction (10_state.md R28). -/
  mirroring : Mirroring
  /-- `PATTERN_LEN`, fixed at construction. -/
  patternLen : Nat
  /-- `PATTERN`, fixed at construction (R25); addresses below `patternLen`. -/
  pattern : Memory
  /-- Address register (R10). -/
  v : BusAddr
  /-- Address write latch: the next WRITE_ADDR is the high byte (R11). -/
  wAddr : Bool
  /-- Scroll register, first byte (R12). -/
  scrollX : Byte
  /-- Scroll register, second byte (R12). -/
  scrollY : Byte
  /-- Scroll write latch: the next WRITE_SCROLL is x (R13). -/
  wScroll : Bool
  /-- Control register (R14 to R17). -/
  ctrl : Byte
  /-- Mask register (R18). -/
  mask : Byte
  /-- Status register (R19, R20). -/
  status : Byte
  /-- Sprite-memory pointer (R21). -/
  oamAddr : Byte
  /-- Read buffer of the data port (R22). -/
  buf : Byte
  /-- Interrupt flag, the output `nmi_pending` (R23). -/
  nmi : Bool
  /-- A fatal condition has been taken (R24). -/
  halted : Bool
  /-- Cycle counter (R26). -/
  cycles : BitVec 9
  /-- Scanline counter (R27). -/
  scanline : BitVec 9
  /-- Internal name-table RAM, 2048 bytes (R25). -/
  ram : Memory
  /-- Palette table, 32 bytes (R25). -/
  palette : Memory
  /-- Sprite memory, 256 bytes (R25). -/
  oam : Memory
  /-- Output ports `dout`, `frame_complete`, `diag` (30_encoding.md R80). -/
  out : Response
  /-- Output port `fault` (R80, 60_exceptions.md R185). -/
  faultOut : Option Fault
  /-- The driver's inputs still to be presented, first one next (the model's own field, notes/assumptions/1.md). -/
  pending : List DriverInput
  deriving DecidableEq, Repr

/-- No result and no event. -/
def Response.none : Response := ⟨.none, .none, .none⟩
/-- A byte on `dout`. -/
def Response.byte (b : Byte) : Response := ⟨some b, .none, .none⟩
/-- The result of TICK. -/
def Response.frame (complete : Bool) : Response := ⟨.none, some complete, .none⟩
/-- The diagnostic of a dropped pattern write. -/
def Response.dropped (a : BusAddr) (b : Byte) : Response := ⟨.none, .none, some ⟨a, b⟩⟩

/-- The block right after construction (10_state.md R34, 70_reset_and_hazards.md R212). The construction arguments
are those of the source's own scenario S7 (95_test_vectors.md): horizontal mirroring and 2048 bytes of zero
(DESIGN CHOICE, notes/assumptions/5.md). Nothing is presented yet. -/
def State.reset : State where
  cfg := Config.default
  mirroring := .horizontal
  patternLen := 2048
  pattern := []
  v := 0
  wAddr := true
  scrollX := 0
  scrollY := 0
  wScroll := true
  ctrl := 0
  mask := 0
  status := 0
  oamAddr := 0
  buf := 0
  nmi := false
  halted := false
  cycles := 0
  scanline := 0
  ram := []
  palette := []
  oam := []
  out := Response.none
  faultOut := .none
  pending := []

end Sys2Proof.Machine
end

