-- ==== Sys2Proof/Machine/Flags.lean ====
section
/-! DEFINITION. The one-bit state: fields of `ctrl` and `status`, derived from the raw byte on every use
(spec/10_state.md R14 to R20), the interrupt flag and the two write latches. -/

namespace Sys2Proof.Machine

open Sys2Proof

/-- `x[i]` of a byte. -/
def testBit (x : Byte) (i : Fin 8) : Bool := x.getLsbD i.val
/-- `x | bit(i)`. -/
def setBit (x : Byte) (i : Fin 8) : Byte := x ||| (1#8 <<< i.val)
/-- `x & ~bit(i)`. -/
def clearBit (x : Byte) (i : Fin 8) : Byte := x &&& ~~~(1#8 <<< i.val)

/-- `nmi_en(c)` (10_state.md R16). -/
def nmiEnabled (cfg : Config) (c : Byte) : Bool := testBit c cfg.ctrlNmiBit

/-- `step()`: 32 when the increment bit is set, else 1, from the current `ctrl` (R17). -/
def addrStep (cfg : Config) (ctrl : Byte) : Nat := if testBit ctrl cfg.ctrlIncBit then incLarge else incSmall

/-- `status[STATUS_VBLANK_BIT]` (R19). -/
def vblankSet (cfg : Config) (status : Byte) : Bool := testBit status cfg.statusVblankBit
/-- `status[STATUS_SPRITE0_BIT]` (R19). -/
def sprite0Set (cfg : Config) (status : Byte) : Bool := testBit status cfg.statusSprite0Bit
/-- `status[STATUS_OVERFLOW_BIT]` (R19). -/
def overflowSet (cfg : Config) (status : Byte) : Bool := testBit status cfg.statusOverflowBit

/-- `status` as READ_STATUS leaves it: VBLANK cleared, every other bit kept (R20, 40_register_bank.md R103). -/
def statusAfterRead (cfg : Config) (status : Byte) : Byte := clearBit status cfg.statusVblankBit

/-- `status` on entry to scanline 241: VBLANK set, then SPRITE0_HIT cleared (43_timing.md R160 step 4). -/
def statusAtVblank (cfg : Config) (status : Byte) : Byte :=
  clearBit (setBit status cfg.statusVblankBit) cfg.statusSprite0Bit

/-- `status` at the frame wrap: SPRITE0_HIT cleared, then VBLANK (R160 step 5). -/
def statusAtWrap (cfg : Config) (status : Byte) : Byte :=
  clearBit (clearBit status cfg.statusSprite0Bit) cfg.statusVblankBit

/-- Whether a WRITE_CTRL of `new` raises `nmi`: the enable goes from 0 to 1 while VBLANK is 1
(40_register_bank.md R101, 60_exceptions.md R188). -/
def retriggers (cfg : Config) (old new status : Byte) : Bool :=
  !nmiEnabled cfg old && nmiEnabled cfg new && vblankSet cfg status

/-- The output `nmi_pending`, which the driver may sample at any time (30_encoding.md R80). -/
def State.nmiPending (s : State) : Bool := s.nmi

end Sys2Proof.Machine
end

