-- ==== Sys2Proof/Machine/Operands.lean ====
section
/-! DEFINITION. Operand forms: the two halves of the address register (spec/30_encoding.md R83,
spec/40_register_bank.md R106), register-indirect access through `v` with its advance (spec/41_data_port.md R121),
through `oam_addr` with its increment (spec/42_sprite_memory.md R141), the two pure address functions `mirror` and
`palidx`, and the routing of the PPU bus (spec/20_memory.md R51, R54, R56). -/

namespace Sys2Proof.Machine

open Sys2Proof

/-- High-byte write of the address register: `{din[5:0], v[7:0]}`, the top two bits of `din` dropped. -/
def withHighByte (v : BusAddr) (din : Byte) : BusAddr := din.extractLsb' 0 6 ++ v.extractLsb' 0 8

/-- Low-byte write of the address register: `{v[13:8], din[7:0]}`. -/
def withLowByte (v : BusAddr) (din : Byte) : BusAddr := v.extractLsb' 8 6 ++ din

/-- The address advance `(v + step()) mod 0x4000` (41_data_port.md R121). -/
def advanced (cfg : Config) (ctrl : Byte) (v : BusAddr) : BusAddr := v + BitVec.ofNat 14 (addrStep cfg ctrl)

/-- The sprite pointer increment `(oam_addr + 1) mod 256` (42_sprite_memory.md R141). -/
def nextSprite (p : Byte) : Byte := p + 1

/-- What is subtracted from the folded index, by mode and logical table (20_memory.md R54; the arithmetic governs,
90_conflicts.md C1). -/
def tableOffset (m : Mirroring) (table : Nat) : Nat :=
  match m with
  | .vertical => if table = 2 ∨ table = 3 then 0x800 else 0
  | .horizontal => if table = 1 ∨ table = 2 then 0x400 else if table = 3 then 0x800 else 0

/-- `mirror(a)`: the offset into `ram` of a bus address in 0x2000 to 0x3FFF, and no value below (R54,
92_eei_decisions.md D18; notes/assumptions/20.md). -/
def mirror (m : Mirroring) (a : BusAddr) : Option (BitVec 11) :=
  if a.toNat < 0x2000 then none
  else
    let index := (a &&& 0x2FFF#14).toNat - 0x2000
    some (BitVec.ofNat 11 (index - tableOffset m (index / 0x400)))

/-- `palidx(a)`: the palette cell of a bus address in 0x3F00 to 0x3F1F, and no value elsewhere (R56). -/
def palidx (a : BusAddr) : Option (BitVec 5) :=
  if a.toNat < 0x3F00 ∨ 0x3F1F < a.toNat then none
  else if a = 0x3F10 ∨ a = 0x3F14 ∨ a = 0x3F18 ∨ a = 0x3F1C then
    some (BitVec.ofNat 5 (a.toNat - 0x10 - 0x3F00))
  else some (BitVec.ofNat 5 (a.toNat - 0x3F00))

/-- Where the bus routes an access (20_memory.md R51). -/
inductive BusTarget where
  /-- Pattern memory, read only. -/
  | pattern
  /-- A cell of `ram`. -/
  | ram (offset : BitVec 11)
  /-- A cell of `palette`. -/
  | palette (index : BitVec 5)
  /-- Nothing there: the fault the access raises. -/
  | nothing (f : Fault)
  deriving DecidableEq, Repr

/-- R51, its ranges tested in the order of its rows. The last arm and the two `none` arms are row 7, "anything else",
a masking or mirroring bug (60_exceptions.md R182), which a 14-bit address never reaches. -/
def busTarget (m : Mirroring) (a : BusAddr) : BusTarget :=
  if a.toNat ≤ 0x1FFF then .pattern
  else if a.toNat ≤ 0x2FFF then
    match mirror m a with
    | some offset => .ram offset
    | none => .nothing (.addressRange a)
  else if a.toNat ≤ 0x3EFF then .nothing (.mirrorWindowAccess a)
  else if a.toNat ≤ 0x3F1F then
    match palidx a with
    | some index => .palette index
    | none => .nothing (.addressRange a)
  else if a.toNat ≤ 0x3FFF then .nothing (.paletteIndexRange a)
  else .nothing (.addressRange a)

/-- Whether a READ_DATA at this address goes through the read buffer: pattern and name-table ranges do, palette
reads do not (41_data_port.md R123, R125). -/
def bufferedRead (a : BusAddr) : Bool := decide (a.toNat ≤ 0x2FFF)

end Sys2Proof.Machine
end

