-- ==== Sys2Proof/Machine/Ops.lean ====
section
/-! DEFINITION. The named operations the meanings share: reading and writing one byte of each space
(spec/20_memory.md R50, R57, R67, R68), completing an operation, taking a fault (spec/60_exceptions.md R185), and
construction, the one way out of it (spec/70_reset_and_hazards.md R210, R211). -/

namespace Sys2Proof.Machine

open Sys2Proof

/-- `MemRead(RAM, o, 1)`. -/
def ramRead (s : State) (o : BitVec 11) : Byte := Memory.read s.ram o.toNat
/-- `MemWrite(RAM, o, 1, b)`. -/
def ramWrite (s : State) (o : BitVec 11) (b : Byte) : State := { s with ram := Memory.write s.ram o.toNat b }
/-- `MemRead(PAL, i, 1)`. -/
def palRead (s : State) (i : BitVec 5) : Byte := Memory.read s.palette i.toNat
/-- `MemWrite(PAL, i, 1, b)`. -/
def palWrite (s : State) (i : BitVec 5) (b : Byte) : State := { s with palette := Memory.write s.palette i.toNat b }
/-- `MemRead(OAM, p, 1)` (20_memory.md R67). -/
def oamRead (s : State) (p : Byte) : Byte := Memory.read s.oam p.toNat
/-- `MemWrite(OAM, p, 1, b)` (R67). -/
def oamWrite (s : State) (p : Byte) (b : Byte) : State := { s with oam := Memory.write s.oam p.toNat b }
/-- `MemRead(PAT, a, 1)`: a byte below `PATTERN_LEN`, none at or past it (R68). `PAT` is never written. -/
def patRead (s : State) (a : BusAddr) : Option Byte :=
  if a.toNat < s.patternLen then some (Memory.read s.pattern a.toNat) else none

/-- `MemWrite(PPUBUS, a, 1, b)`: the "on WRITE_DATA" column of R51 without the address advance (R57). -/
def busWrite (s : State) (a : BusAddr) (b : Byte) : Except Fault State :=
  match busTarget s.mirroring a with
  | .pattern => .ok s
  | .ram o => .ok (ramWrite s o b)
  | .palette i => .ok (palWrite s i b)
  | .nothing f => .error f

/-- `MemRead(PPUBUS, a, 1)`: the byte the "on READ_DATA" column of R51 names, without the buffering (R57). -/
def busRead (s : State) (a : BusAddr) : Except Fault Byte :=
  match busTarget s.mirroring a with
  | .pattern =>
    match patRead s a with
    | some b => .ok b
    | none => .error (.patternIndexRange a)
  | .ram o => .ok (ramRead s o)
  | .palette i => .ok (palRead s i)
  | .nothing f => .error f

/-- The address register advanced by the current step (41_data_port.md R121). -/
def advanceV (s : State) : State := { s with v := advanced s.cfg s.ctrl s.v }

/-- One store at the sprite pointer with its increment: the body of WRITE_OAM_DATA and of the OAM_DMA loop
(42_sprite_memory.md R142, R144). -/
def oamStore (s : State) (b : Byte) : State := { oamWrite s s.oamAddr b with oamAddr := nextSprite s.oamAddr }

/-- The OAM_DMA loop over its block, in index order (R144). -/
def oamStoreAll : State → List Byte → State
  | s, [] => s
  | s, b :: bs => oamStoreAll (oamStore s b) bs

/-- An operation completes: the state it leaves, and its response on the output ports (00_scope.md R3). -/
def complete (s : State) (r : Response) : Host.Outcome State Fault Refusal := .next { s with out := r }

/-- Taking a fatal condition (60_exceptions.md R185): a hard stop. The operation does not complete, no state follows
("a model returns the fault as the step's outcome, treats the faulted state as never final"). What is known of the
block afterwards is `Safety.AfterFault`. -/
def raiseFault (f : Fault) : Host.Outcome State Fault Refusal := .fault f

/-- No operation is defined on a halted block (10_state.md R24, 60_exceptions.md R185). -/
def ifRunning (s : State) (k : Host.Outcome State Fault Refusal) : Host.Outcome State Fault Refusal :=
  if s.halted then .refused .haltedBlock else k

/-- Construction, the `reset` strobe: every component at its reset value (10_state.md R34), whatever the block held,
for the new arguments (70_reset_and_hazards.md R210, R211). The implementation parameters and the inputs the driver has
still to present stand outside the block and stay. -/
def construct (cfg : Config) (pattern : List Byte) (m : Mirroring) (pending : List DriverInput) : State where
  cfg := cfg
  mirroring := m
  patternLen := pattern.length
  pattern := Memory.ofBytes 0 pattern
  v := 0
  wAddr := true
  scrollX := 0
  scrollY := 0
  wScroll := true
  ctrl := 0
  mask := 0
  status := 0
  oamAddr := 0
  buf := 0
  nmi := false
  halted := false
  cycles := 0
  scanline := 0
  ram := cfg.ramInit
  palette := cfg.paletteInit
  oam := cfg.oamInit
  out := Response.none
  faultOut := .none
  pending := pending

/-- The refusal a rejected transaction meets at the block's boundary (60_exceptions.md R187). -/
def refusalOf : Reject → Refusal
  | .reservedCommand cmd => .reservedCommand cmd
  | .dmaBlockSize n => .dmaBlockSize n

/-- The code of each fault (60_exceptions.md R180). -/
def Fault.code : Fault → Nat
  | .mirrorWindowAccess _ => 1
  | .addressRange _ => 2
  | .paletteIndexRange _ => 3
  | .patternIndexRange _ => 4

/-- The value each fault records (R180). -/
def Fault.address : Fault → BusAddr
  | .mirrorWindowAccess a => a
  | .addressRange a => a
  | .paletteIndexRange a => a
  | .patternIndexRange a => a

end Sys2Proof.Machine
end

