-- ==== Sys2Proof/Machine/DataPort.lean ====
section
/-! DEFINITION. The two operations of the data port (spec/41_data_port.md). -/

namespace Sys2Proof.Machine

open Sys2Proof

/-- The event a completed WRITE_DATA emits: only a write in the pattern range has one (R120, R122,
60_exceptions.md R186). -/
def writeResponse (s : State) (din : Byte) : Response :=
  match busTarget s.mirroring s.v with
  | .pattern => Response.dropped s.v din
  | .ram _ => Response.none
  | .palette _ => Response.none
  | .nothing _ => Response.none

/-- WRITE_DATA (R120): dispatch at `v`, then the advance. -/
def execWriteData (din : Byte) (s : State) : Host.Outcome State Fault Refusal :=
  ifRunning s
    (match busWrite s s.v din with
    | .error f => raiseFault f
    | .ok t => complete (advanceV t) (writeResponse s din))

/-- READ_DATA (R123): the advance, then the dispatch at the old `v`; a buffered read returns `buf` and refills it, a
palette read returns the live cell and leaves `buf` alone (R125, 92_eei_decisions.md D15). -/
def execReadData (s : State) : Host.Outcome State Fault Refusal :=
  ifRunning s
    (match busRead s s.v with
    | .error f => raiseFault f
    | .ok b =>
      if bufferedRead s.v then complete { advanceV s with buf := b } (Response.byte s.buf)
      else complete (advanceV s) (Response.byte b))

end Sys2Proof.Machine
end

