-- ==== Sys2Proof/Machine/RegisterBank.lean ====
section
/-! DEFINITION. The five operations of the Register Bank (spec/40_register_bank.md). -/

namespace Sys2Proof.Machine

open Sys2Proof

/-- `ctrl` replaced, and `nmi` raised on an enable transition during vblank (R101). -/
def storeCtrl (s : State) (din : Byte) : State :=
  { s with ctrl := din, nmi := s.nmi || retriggers s.cfg s.ctrl din s.status }

/-- The three side effects of READ_STATUS (R103, R105). -/
def resync (s : State) : State :=
  { s with status := statusAfterRead s.cfg s.status, wAddr := true, wScroll := true }

/-- The scroll byte the latch selects, and the latch toggled (R104). -/
def storeScroll (s : State) (din : Byte) : State :=
  if s.wScroll then { s with scrollX := din, wScroll := false } else { s with scrollY := din, wScroll := true }

/-- The half of `v` the latch selects, and the latch toggled (R106). -/
def storeAddr (s : State) (din : Byte) : State :=
  if s.wAddr then { s with v := withHighByte s.v din, wAddr := false }
  else { s with v := withLowByte s.v din, wAddr := true }

/-- WRITE_CTRL (R101). -/
def execWriteCtrl (din : Byte) (s : State) : Host.Outcome State Fault Refusal :=
  ifRunning s (complete (storeCtrl s din) Response.none)

/-- WRITE_MASK (R102). -/
def execWriteMask (din : Byte) (s : State) : Host.Outcome State Fault Refusal :=
  ifRunning s (complete { s with mask := din } Response.none)

/-- READ_STATUS (R103): the byte returned is the one before any clearing. -/
def execReadStatus (s : State) : Host.Outcome State Fault Refusal :=
  ifRunning s (complete (resync s) (Response.byte s.status))

/-- WRITE_SCROLL (R104). -/
def execWriteScroll (din : Byte) (s : State) : Host.Outcome State Fault Refusal :=
  ifRunning s (complete (storeScroll s din) Response.none)

/-- WRITE_ADDR (R106). -/
def execWriteAddr (din : Byte) (s : State) : Host.Outcome State Fault Refusal :=
  ifRunning s (complete (storeAddr s din) Response.none)

end Sys2Proof.Machine
end

