-- ==== Sys2Proof/Machine/SpriteMemory.lean ====
section
/-! DEFINITION. The four operations of the Sprite Memory Controller (spec/42_sprite_memory.md). -/

namespace Sys2Proof.Machine

open Sys2Proof

/-- WRITE_OAM_ADDR (R140). -/
def execWriteOamAddr (din : Byte) (s : State) : Host.Outcome State Fault Refusal :=
  ifRunning s (complete { s with oamAddr := din } Response.none)

/-- WRITE_OAM_DATA (R142). -/
def execWriteOamData (din : Byte) (s : State) : Host.Outcome State Fault Refusal :=
  ifRunning s (complete (oamStore s din) Response.none)

/-- READ_OAM_DATA (R143): no side effect, not buffered. -/
def execReadOamData (s : State) : Host.Outcome State Fault Refusal :=
  ifRunning s (complete s (Response.byte (oamRead s s.oamAddr)))

/-- OAM_DMA (R144, R145): all 256 stores in one step. A block of another length is no operand
(60_exceptions.md R187). -/
def execOamDma (block : List Byte) (s : State) : Host.Outcome State Fault Refusal :=
  ifRunning s
    (if block.length = oamSize then complete (oamStoreAll s block) Response.none
    else .refused (.dmaBlockSize block.length))

end Sys2Proof.Machine
end

