-- ==== Sys2Proof/Machine/Timing.lean ====
section
/-! DEFINITION. TICK and NMI_ACK (spec/43_timing.md). Sums are exact; the counters are stored in 9 bits
(92_eei_decisions.md D24; notes/assumptions/18.md). -/

namespace Sys2Proof.Machine

open Sys2Proof

/-- R160 step 4: entry to scanline 241. The enable bit is sampled here. -/
def enterVblank (s : State) : State :=
  { s with
    scanline := BitVec.ofNat 9 vblankScanline
    status := statusAtVblank s.cfg s.status
    nmi := s.nmi || nmiEnabled s.cfg s.ctrl }

/-- R160 step 5: the frame wrap. An interrupt nobody took is lost (70_reset_and_hazards.md R226). -/
def wrapFrame (s : State) : State :=
  { s with scanline := 0, status := statusAtWrap s.cfg s.status, nmi := false }

/-- R160 steps 3 to 6 from the scanline increment on: which boundary the new scanline is. -/
def rollScanline (s : State) : Host.Outcome State Fault Refusal :=
  if s.scanline.toNat + 1 = vblankScanline then complete (enterVblank s) (Response.frame false)
  else if scanlinesPerFrame ≤ s.scanline.toNat + 1 then complete (wrapFrame s) (Response.frame true)
  else complete { s with scanline := BitVec.ofNat 9 (s.scanline.toNat + 1) } (Response.frame false)

/-- TICK (R160): add, and roll at most one scanline. -/
def execTick (elapsed : Byte) (s : State) : Host.Outcome State Fault Refusal :=
  ifRunning s
    (if s.cycles.toNat + elapsed.toNat < cyclesPerScanline then
      complete { s with cycles := BitVec.ofNat 9 (s.cycles.toNat + elapsed.toNat) } (Response.frame false)
    else
      rollScanline { s with cycles := BitVec.ofNat 9 (s.cycles.toNat + elapsed.toNat - cyclesPerScanline) })

/-- NMI_ACK (R162). -/
def execNmiAck (s : State) : Host.Outcome State Fault Refusal :=
  ifRunning s (complete { s with nmi := false } Response.none)

end Sys2Proof.Machine
end

