-- ==== Sys2Proof/Machine/Dispatch.lean ====
section
/-! DEFINITION. One arm per operation (spec/30_encoding.md R82). -/

namespace Sys2Proof.Machine

open Sys2Proof

def exec (i : Instr) (s : State) : Host.Outcome State Fault Refusal :=
  match i with
  | .writeCtrl din => Sys2Proof.Machine.execWriteCtrl din s
  | .writeMask din => Sys2Proof.Machine.execWriteMask din s
  | .readStatus => Sys2Proof.Machine.execReadStatus s
  | .writeOamAddr din => Sys2Proof.Machine.execWriteOamAddr din s
  | .writeOamData din => Sys2Proof.Machine.execWriteOamData din s
  | .readOamData => Sys2Proof.Machine.execReadOamData s
  | .writeScroll din => Sys2Proof.Machine.execWriteScroll din s
  | .writeAddr din => Sys2Proof.Machine.execWriteAddr din s
  | .writeData din => Sys2Proof.Machine.execWriteData din s
  | .readData => Sys2Proof.Machine.execReadData s
  | .oamDma block => Sys2Proof.Machine.execOamDma block s
  | .tick elapsed => Sys2Proof.Machine.execTick elapsed s
  | .nmiAck => Sys2Proof.Machine.execNmiAck s

end Sys2Proof.Machine
end

