-- ==== Sys2Proof/Machine/Presented.lean ====
section
/-! DEFINITION. How operations come to the block: a transaction put at the head of the driver's stream, and a list of
operations issued one after another (spec/20_memory.md R62, spec/00_scope.md R3). -/

namespace Sys2Proof.Machine

open Sys2Proof

/-- The transaction becomes the driver's next input; nothing else changes. -/
def present (s : State) (t : Transaction) : State := { s with pending := .operation t :: s.pending }

/-- Operations issued in order, each seeing the full effect of those before it (20_memory.md R62); the run ends at the
first fault or refusal. -/
def runOps : List Instr → State → Host.Outcome State Fault Refusal
  | [], s => .next s
  | i :: is, s =>
    match exec i s with
    | .next t => runOps is t
    | .fault f => .fault f
    | .refused r => .refused r

end Sys2Proof.Machine
end

