-- ==== Sys2Proof/Machine/Step.lean ====
section
/-! DEFINITION. One step of the block: it takes the driver's next input, or holds its state when there is none. -/

namespace Sys2Proof.Machine

open Sys2Proof

/-- One step (00_scope.md R3, 20_memory.md R62, 60_exceptions.md R197): with nothing presented the block holds its
state; the `reset` strobe constructs anew; an operation is decoded and executed, or refused at the boundary. -/
def step (s : State) : Host.Outcome State Fault Refusal :=
  match s.pending with
  | [] => .next s
  | .resetStrobe pattern m :: rest => .next (construct s.cfg pattern m rest)
  | .operation t :: rest =>
    match decode t with
    | .ok i => exec i { s with pending := rest }
    | .error e => .refused (refusalOf e)

/-- The word presented as the driver's next operation (notes/assumptions/1.md, 9.md). -/
def State.withFetchWord (s : State) (nbits w : Nat) : State := present s (Transaction.ofWord nbits w)

end Sys2Proof.Machine
end

