-- ==== Sys2Proof/Machine/Pseudo.lean ====
section
/-! DEFINITION. The pseudo-operations of spec/30_encoding.md R87, each by its expansion. They are notation over the
operations; none is a command. -/

namespace Sys2Proof.Machine

open Sys2Proof

/-- `SET_ADDR a`. -/
def setAddrOps (a : BitVec 16) : List Instr := [.writeAddr (a.extractLsb' 8 8), .writeAddr (a.extractLsb' 0 8)]
/-- `SYNC`. -/
def syncOps : List Instr := [.readStatus]
/-- `SET_SCROLL x, y`. -/
def setScrollOps (x y : Byte) : List Instr := [.writeScroll x, .writeScroll y]
/-- `POKE a, b`. -/
def pokeOps (a : BitVec 16) (b : Byte) : List Instr := setAddrOps a ++ [.writeData b]
/-- `PEEK a`: two reads below the palette, one in it. Which of the two is decided by the bus address, `a & 0x3FFF`
(DEDUCED, notes/assumptions/21.md). -/
def peekOps (a : BitVec 16) : List Instr :=
  if a.toNat % 0x4000 < 0x3F00 then setAddrOps a ++ [.readData, .readData] else setAddrOps a ++ [.readData]
/-- `OAM_POKE p, b`. -/
def oamPokeOps (p b : Byte) : List Instr := [.writeOamAddr p, .writeOamData b]
/-- `OAM_PEEK p`. -/
def oamPeekOps (p : Byte) : List Instr := [.writeOamAddr p, .readOamData]
/-- `TICKS n, k`. -/
def ticksOps (n : Byte) (k : Nat) : List Instr := List.replicate k (.tick n)

/-- How many calls of a run of TICKs returned true (43_timing.md R163). -/
def framesCompleted : List Byte → State → Nat
  | [], _ => 0
  | e :: es, s =>
    match execTick e s with
    | .next t => (if t.out.frameComplete = some true then 1 else 0) + framesCompleted es t
    | .fault _ => 0
    | .refused _ => 0

end Sys2Proof.Machine
end

