-- ==== Sys2Proof/Safety.lean ====
section
/-! DEFINITION. What counts as a good state and a safe access, in the terms the statements use. -/

namespace Sys2Proof.Safety

open Sys2Proof Sys2Proof.Machine

/-- The parameters meet the constraints of 00_scope.md section 4, and the initial memories are memories of their
sizes. -/
structure GoodConfig (c : Config) : Prop where
  bits : c.bitsDistinct
  ramInit : Memory.wf c.ramInit = true ∧ Memory.below ramSize c.ramInit = true
  paletteInit : Memory.wf c.paletteInit = true ∧ Memory.below paletteSize c.paletteInit = true
  oamInit : Memory.wf c.oamInit = true ∧ Memory.below oamSize c.oamInit = true

/-- The invariant of the block: the counter bounds of 10_state.md R29 (`v` and `oam_addr` are bounded by their
types), every memory in canonical form and within its size (R25), the four palette cells no operation reaches still at
their initial value (20_memory.md R56), VBLANK and a pending interrupt only in the vblank period (43_timing.md R165,
60_exceptions.md R188), and the `fault` output silent exactly while the block is not halted (60_exceptions.md R185). -/
structure Inv (s : State) : Prop where
  cfg : GoodConfig s.cfg
  cycles : s.cycles.toNat < 341
  scanline : s.scanline.toNat < 262
  ram : Memory.wf s.ram = true ∧ Memory.below ramSize s.ram = true
  palette : Memory.wf s.palette = true ∧ Memory.below paletteSize s.palette = true
  oam : Memory.wf s.oam = true ∧ Memory.below oamSize s.oam = true
  pattern : Memory.wf s.pattern = true ∧ Memory.below s.patternLen s.pattern = true
  paletteHoles : ∀ k ∈ [0x10, 0x14, 0x18, 0x1C], Memory.read s.palette k = Memory.read s.cfg.paletteInit k
  vblank : vblankSet s.cfg s.status = true → 241 ≤ s.scanline.toNat
  nmi : s.nmi = true → 241 ≤ s.scanline.toNat
  halt : s.halted = s.faultOut.isSome

/-- What is known of the block after a fault, and all that is (60_exceptions.md R185, 93_implementation_defined.md U8):
it is halted and its `fault` output names the fault. Every other component may hold any value. -/
structure AfterFault (f : Fault) (t : State) : Prop where
  halted : t.halted = true
  faultOut : t.faultOut = some f

/-- Bus addresses where a WRITE_DATA completes (20_memory.md R51 rows 1, 2, 4, 5). -/
abbrev WriteLegal (a : BusAddr) : Prop := a.toNat ≤ 0x2FFF ∨ (0x3F00 ≤ a.toNat ∧ a.toNat ≤ 0x3F1F)

/-- Bus addresses where a READ_DATA completes: the same, but the pattern range only below `PATTERN_LEN` (R68). -/
abbrev ReadLegal (s : State) (a : BusAddr) : Prop :=
  WriteLegal a ∧ (a.toNat ≤ 0x1FFF → a.toNat < s.patternLen)

/-- A safe run: `k` steps, each with a next state. -/
def SafeRun (k : Nat) (s t : State) : Prop := Host.Core.run Sys2Proof.core k s = .next t

end Sys2Proof.Safety
end

