-- ==== Sys2Proof/Certificates/Slice0/Obligations.lean ====
section
/-! DEFINITION. The statements for the provers, each formalising rules of the spec. A hypothesis `s.halted = false` is
the spec's own: every operation is defined only while `halted = 0`. A frame is written as an equation: the next state
is the old one but for the fields named in it, so every field not named, every memory among them, is unchanged. `out`
is the model's record of the output ports of R80 (notes/assumptions/2.md): a statement of basis 'stated' says of it
only what is on `dout` or `frame_complete`; that it is empty where an operation returns nothing is the model's. Where
a docstring names a decision D<n> (92_eei_decisions.md) or says "derived", the clause is the spec's own choice or
inference, not the source's, and the basis is 'derived'. -/

open Sys2Proof Sys2Proof.Machine Sys2Proof.Safety

/-! ## Encoding, decoding, the step -/

/-- An operation with its operand survives the word that carries it (the word layout is the model's choice,
notes/assumptions/9.md; codes and operands are 30_encoding.md R82, R83, R85). -/
def Obligations.TableWordRoundTrip : Prop :=
  ∀ i : Instr, i.wellFormed = true → decodeTableWord i.wordBits i.word = some i

/-- What the decoder accepts is the operation presented: its code on `cmd`, its operand from the port R83 names. -/
def Obligations.DecodedOperationIsTheOnePresented : Prop :=
  ∀ (t : Transaction) (i : Instr), decode t = .ok i →
    i.wellFormed = true ∧ i.command = t.cmd ∧
    (match i with
      | .writeCtrl d | .writeMask d | .writeOamAddr d | .writeOamData d | .writeScroll d | .writeAddr d
      | .writeData d => d = t.din
      | .oamDma block => block = t.dmaBlock
      | .tick e => e = t.elapsed
      | .readStatus | .readOamData | .readData | .nmiAck => True)

/-- 30_encoding.md R84: the nineteen reserved codes are refused, by the decoder and by the step; the thirteen others
decode for every operand, a DMA block of 256 bytes given (the codes and their reservation are decisions D2 to D4). -/
def Obligations.ReservedCodesAreRefused : Prop :=
  (∀ t : Transaction, t.cmd ∈ [0x02#5, 0x08, 0x09, 0x0B, 0x0D, 0x0E, 0x13, 0x14, 0x15, 0x16, 0x17, 0x18, 0x19,
      0x1A, 0x1B, 0x1C, 0x1D, 0x1E, 0x1F] →
    decode t = .error (.reservedCommand t.cmd) ∧
    ∀ (s : State) (rest : List DriverInput), s.pending = .operation t :: rest →
      step s = .refused (.reservedCommand t.cmd)) ∧
  (∀ t : Transaction, t.cmd ∈ [0x00#5, 0x01, 0x0A, 0x03, 0x04, 0x0C, 0x05, 0x06, 0x07, 0x0F, 0x11, 0x12] →
    ∃ i, decode t = .ok i) ∧
  (∀ t : Transaction, t.cmd = 0x10#5 → t.dmaBlock.length = 256 → decode t = .ok (.oamDma t.dmaBlock))

/-- 60_exceptions.md R187 (decision D4): the boundary refuses a DMA operand that is not exactly 256 bytes. -/
def Obligations.DmaBlockOfAnotherSizeIsRefused : Prop :=
  ∀ (t : Transaction) (s : State) (rest : List DriverInput), t.cmd = 0x10#5 → t.dmaBlock.length ≠ 256 →
    s.pending = .operation t :: rest → step s = .refused (.dmaBlockSize t.dmaBlock.length)

/-- Words written out from the spec's codes (30_encoding.md R82) decode to their operations; a sanity statement. -/
def Obligations.SampleWordsDecode : Prop :=
  decodeTableWord 8 0b00000 = some (.writeCtrl 0) ∧ decodeTableWord 8 0b01010 = some .readStatus ∧
  decodeTableWord 8 0b01100 = some .readOamData ∧ decodeTableWord 16 0x6607 = some (.writeData 0x66) ∧
  decodeTableWord 8 0b01111 = some .readData ∧ decodeTableWord 16 0xFF11 = some (.tick 255) ∧
  decodeTableWord 8 0b10010 = some .nmiAck ∧ decodeTableWord 8 0b00010 = none ∧ decodeTableWord 8 0b10011 = none

/-- A step runs the decoded operation: the driver's next transaction is taken off its stream and executed (the stream is
the model's, notes/assumptions/1.md). -/
def Obligations.StepRunsTheDecodedOperation : Prop :=
  ∀ (s : State) (t : Transaction) (rest : List DriverInput) (i : Instr),
    s.pending = .operation t :: rest → decode t = .ok i → step s = exec i { s with pending := rest }

/-- 60_exceptions.md R197: between operations the block holds its state unchanged (a step with nothing presented is the
model's, notes/assumptions/1.md). -/
def Obligations.NothingPresentedHoldsTheState : Prop :=
  ∀ s : State, s.pending = [] → step s = .next s

/-- 20_memory.md R62: the operations of the driver's stream take effect one at a time, in order, each on the state the
one before left (the stream is the model's, notes/assumptions/1.md). -/
def Obligations.DriverStreamRunsInOrder : Prop :=
  ∀ (is : List Instr) (s : State) (rest : List DriverInput), (∀ i ∈ is, i.wellFormed = true) →
    s.pending = is.map (fun i => DriverInput.operation (encode i)) ++ rest →
    Host.Core.run Sys2Proof.core is.length s = runOps is { s with pending := rest }

/-! ## Construction, invariants, faults -/

/-- 10_state.md R34, 70_reset_and_hazards.md R210, R211: the `reset` strobe puts a live or halted block in the reset
state, for any arguments. (The strobe on a live block is decision D23; the silent reset values are decisions D7 to D9
and D17; the `out`, `faultOut`, `cfg` and `pending` clauses are the model's, notes/assumptions/2.md, 3.md, 16.md.) -/
def Obligations.ResetStrobeConstructsAnew : Prop :=
  ∀ (s : State) (bytes : List Byte) (m : Mirroring) (rest : List DriverInput),
    s.pending = .resetStrobe bytes m :: rest →
    ∃ t, step s = .next t ∧
      t.buf = 0x00 ∧ t.wAddr = true ∧ t.cycles = 0 ∧ t.scanline = 0 ∧ t.nmi = false ∧ t.wScroll = true ∧
      t.v = 0x0000 ∧ t.scrollX = 0x00 ∧ t.scrollY = 0x00 ∧ t.ctrl = 0x00 ∧ t.mask = 0x00 ∧ t.status = 0x00 ∧
      t.oamAddr = 0x00 ∧ t.halted = false ∧
      t.ram = s.cfg.ramInit ∧ t.palette = s.cfg.paletteInit ∧ t.oam = s.cfg.oamInit ∧
      t.mirroring = m ∧ t.patternLen = bytes.length ∧
      (∀ n, n < bytes.length → Memory.read t.pattern n = bytes.getD n 0) ∧
      t.cfg = s.cfg ∧ t.pending = rest ∧ t.out = Response.none ∧ t.faultOut = none

/-- The invariant holds right after reset (10_state.md R34; the reset values the source does not give are decisions D7
to D9, the construction arguments the model's, notes/assumptions/5.md). -/
def Obligations.InvariantHoldsAtReset : Prop := Inv State.reset

/-- 10_state.md R29 with R25, 20_memory.md R56, 43_timing.md R165 (the last two derived there): every step keeps the
invariant. The canonical form of the memories is the model's (notes/assumptions/7.md). -/
def Obligations.EveryStepKeepsTheInvariant : Prop :=
  ∀ s t : State, Inv s → step s = .next t → Inv t

/-- 10_state.md R24, 60_exceptions.md R185: on the block a fault leaves, no operation is defined, and the only step
that leaves the halted state is construction (decision D17; notes/assumptions/3.md). -/
def Obligations.HaltedBlockOnlyReconstructs : Prop :=
  ∀ (f : Fault) (s : State), AfterFault f s →
    (∀ i : Instr, exec i s = .refused .haltedBlock) ∧
    (∀ t : State, step s = .next t → t.halted = false → ∃ bytes m rest, s.pending = .resetStrobe bytes m :: rest)

/-- 60_exceptions.md R180 (names, codes and two of the conditions are the spec's decisions D13, D16, D17): an operation
faults exactly under the table's condition for it, and the fault carries the code and the address read from `v` at
entry. -/
def Obligations.FaultsComeFromTheDataPort : Prop :=
  ∀ (i : Instr) (s : State) (f : Fault), exec i s = .fault f ↔ s.halted = false ∧ f.address = s.v ∧
    ((f.code = 1 ∧ (i = .readData ∨ ∃ d, i = .writeData d) ∧ 0x3000 ≤ s.v.toNat ∧ s.v.toNat ≤ 0x3EFF) ∨
     (f.code = 2 ∧ (i = .readData ∨ ∃ d, i = .writeData d) ∧ 0x3FFF < s.v.toNat) ∨
     (f.code = 3 ∧ (i = .readData ∨ ∃ d, i = .writeData d) ∧ 0x3F20 ≤ s.v.toNat ∧ s.v.toNat ≤ 0x3FFF) ∨
     (f.code = 4 ∧ i = .readData ∧ s.v.toNat ≤ 0x1FFF ∧ s.patternLen ≤ s.v.toNat))

/-- 60_exceptions.md R182: `AddressRange` is never raised (the spec derives it from the width of `v`). -/
def Obligations.AddressRangeIsNeverRaised : Prop :=
  ∀ (i : Instr) (s : State) (a : BusAddr), exec i s ≠ .fault (.addressRange a)

/-- 60_exceptions.md R180, "the other eleven operations are total": every well-formed operation but the two of the data
port completes on every block that is not halted. -/
def Obligations.ElevenOperationsAreTotal : Prop :=
  ∀ (i : Instr) (s : State), i.wellFormed = true → s.halted = false → i ≠ .readData → (∀ d, i ≠ .writeData d) →
    ∃ t, exec i s = .next t

/-- 10_state.md R28, 70_reset_and_hazards.md R210: MIRRORING and PATTERN change by construction only, the parameters
never. -/
def Obligations.ConstructionArgumentsAreImmutable : Prop :=
  ∀ s t : State, step s = .next t →
    t.cfg = s.cfg ∧
    ((∀ bytes m rest, s.pending ≠ .resetStrobe bytes m :: rest) →
      t.mirroring = s.mirroring ∧ t.patternLen = s.patternLen ∧ t.pattern = s.pattern)

/-- 10_state.md R35: what each operation writes, and nothing else (the output ports `out` aside). -/
def Obligations.FootprintOfEveryOperation : Prop :=
  ∀ (i : Instr) (s t : State), exec i s = .next t →
    match i with
    | .writeCtrl _ => t = { s with ctrl := t.ctrl, nmi := t.nmi, out := t.out }
    | .writeMask _ => t = { s with mask := t.mask, out := t.out }
    | .readStatus => t = { s with status := t.status, wAddr := t.wAddr, wScroll := t.wScroll, out := t.out }
    | .writeOamAddr _ => t = { s with oamAddr := t.oamAddr, out := t.out }
    | .writeOamData _ => t = { s with oam := t.oam, oamAddr := t.oamAddr, out := t.out }
    | .readOamData => t = { s with out := t.out }
    | .writeScroll _ =>
      t = { s with scrollX := t.scrollX, scrollY := t.scrollY, wScroll := t.wScroll, out := t.out } ∧
        (t.scrollX = s.scrollX ∨ t.scrollY = s.scrollY)
    | .writeAddr _ => t = { s with v := t.v, wAddr := t.wAddr, out := t.out }
    | .writeData _ =>
      t = { s with ram := t.ram, palette := t.palette, v := t.v, out := t.out } ∧
        (t.ram = s.ram ∨ t.palette = s.palette)
    | .readData => t = { s with v := t.v, buf := t.buf, out := t.out }
    | .oamDma _ => t = { s with oam := t.oam, oamAddr := t.oamAddr, out := t.out }
    | .tick _ =>
      t = { s with cycles := t.cycles, scanline := t.scanline, status := t.status, nmi := t.nmi, out := t.out }
    | .nmiAck => t = { s with nmi := t.nmi, out := t.out }

/-- 10_state.md R33: what the driver observes of an operation, and only of that one. -/
def Obligations.ResponsesOfEveryOperation : Prop :=
  ∀ (i : Instr) (s t : State), exec i s = .next t →
    (t.out.dout.isSome = true ↔ i = .readStatus ∨ i = .readData ∨ i = .readOamData) ∧
    (t.out.frameComplete.isSome = true ↔ ∃ e, i = .tick e) ∧
    (t.out.diag.isSome = true ↔ (∃ d, i = .writeData d) ∧ s.v.toNat ≤ 0x1FFF)

/-! ## The Register Bank -/

/-- WRITE_CTRL, 40_register_bank.md R101: its command code, `ctrl` replaced, `nmi` raised on an enable transition while
VBLANK is 1 and never cleared, nothing else changed. -/
def Obligations.WriteCtrlReplacesAndMayRaise : Prop :=
  ∀ (d : Byte) (s : State), (∀ block e, decode ⟨0x00#5, d, block, e⟩ = .ok (.writeCtrl d)) ∧
    (s.halted = false →
      ∃ t, exec (.writeCtrl d) s = .next t ∧ t.ctrl = d ∧
        (t.nmi = true ↔ s.nmi = true ∨
          (s.ctrl.getLsbD s.cfg.ctrlNmiBit.val = false ∧ d.getLsbD s.cfg.ctrlNmiBit.val = true ∧
            s.status.getLsbD s.cfg.statusVblankBit.val = true)) ∧
        t = { s with ctrl := t.ctrl, nmi := t.nmi, out := t.out })

/-- WRITE_MASK, R102: its command code, `mask` replaced, nothing else changed. -/
def Obligations.WriteMaskReplaces : Prop :=
  ∀ (d : Byte) (s : State), (∀ block e, decode ⟨0x01#5, d, block, e⟩ = .ok (.writeMask d)) ∧
    (s.halted = false → ∃ r, exec (.writeMask d) s = .next { s with mask := d, out := r })

/-- READ_STATUS, R103: its command code; the old byte is returned; VBLANK is cleared and no other bit; both latches are
reset; nothing else changed. -/
def Obligations.ReadStatusReturnsThenClears : Prop :=
  ∀ s : State, (∀ d block e, decode ⟨0x0A#5, d, block, e⟩ = .ok .readStatus) ∧
    (s.halted = false →
      ∃ t, exec .readStatus s = .next t ∧ t.out.dout = some s.status ∧
        (∀ j : Fin 8, t.status.getLsbD j.val =
          if j = s.cfg.statusVblankBit then false else s.status.getLsbD j.val) ∧
        t.wAddr = true ∧ t.wScroll = true ∧
        t = { s with status := t.status, wAddr := true, wScroll := true, out := t.out })

/-- WRITE_SCROLL, R104: its command code; the byte the latch selects is written and the latch toggles; nothing else
changed. -/
def Obligations.WriteScrollAlternates : Prop :=
  ∀ (d : Byte) (s : State), (∀ block e, decode ⟨0x05#5, d, block, e⟩ = .ok (.writeScroll d)) ∧
    (s.halted = false →
      (s.wScroll = true →
        ∃ r, exec (.writeScroll d) s = .next { s with scrollX := d, wScroll := false, out := r }) ∧
      (s.wScroll = false →
        ∃ r, exec (.writeScroll d) s = .next { s with scrollY := d, wScroll := true, out := r }))

/-- WRITE_ADDR, R106: its command code; `{din[5:0], v[7:0]}` or `{v[13:8], din}`, and the latch toggles; nothing else
changed. -/
def Obligations.WriteAddrWritesOneHalf : Prop :=
  ∀ (d : Byte) (s : State), (∀ block e, decode ⟨0x06#5, d, block, e⟩ = .ok (.writeAddr d)) ∧
    (s.halted = false →
      ∃ t, exec (.writeAddr d) s = .next t ∧
        (s.wAddr = true → t.v.toNat = d.toNat % 64 * 256 + s.v.toNat % 256 ∧ t.wAddr = false) ∧
        (s.wAddr = false → t.v.toNat = s.v.toNat / 256 * 256 + d.toNat ∧ t.wAddr = true) ∧
        t = { s with v := t.v, wAddr := t.wAddr, out := t.out })

/-- SET_ADDR, 30_encoding.md R87 and R83: from `w_addr = 1` a pair of writes assembles the 14-bit address, high byte
first. -/
def Obligations.AddressPairAssembles : Prop :=
  ∀ (a : BitVec 16) (s : State), s.halted = false → s.wAddr = true →
    ∃ t, runOps (setAddrOps a) s = .next t ∧ t.v.toNat = a.toNat % 0x4000 ∧ t.wAddr = true ∧
      t = { s with v := t.v, out := Response.none }

/-- 40_register_bank.md R105: after READ_STATUS the next writes are the first of a pair again, whatever both latches
were (that a reset scroll latch takes x first is decision D9). -/
def Obligations.StatusReadResynchronises : Prop :=
  ∀ (h l : Byte) (s : State), s.halted = false →
    (∃ t, runOps [.readStatus, .writeAddr h, .writeAddr l] s = .next t ∧
      t.v.toNat = h.toNat % 64 * 256 + l.toNat ∧ t.wAddr = true) ∧
    (∃ t, runOps [.readStatus, .writeScroll h, .writeScroll l] s = .next t ∧
      t.scrollX = h ∧ t.scrollY = l ∧ t.wScroll = true)

/-- 10_state.md R13, 90_conflicts.md C2: the two latches are independent, so an address write and a scroll write give
the same state in either order (the spec derives the independence in C2). -/
def Obligations.LatchesAreIndependent : Prop :=
  ∀ (a b : Byte) (s : State),
    runOps [.writeAddr a, .writeScroll b] s = runOps [.writeScroll b, .writeAddr a] s

/-! ## The bus, the data port -/

/-- `mirror`, 20_memory.md R54 and R55: closed form in both modes, no value below 0x2000, the fold, the aliases, no
other collision, and every offset the image of exactly two name-table addresses (R55 is derived there from R54; no value
below 0x2000 is decision D18, notes/assumptions/20.md). -/
def Obligations.MirrorIsTheBankMap : Prop :=
  (∀ (m : Mirroring) (a : BusAddr), a.toNat < 0x2000 → mirror m a = none) ∧
  (∀ a : BusAddr, 0x2000 ≤ a.toNat →
    (∃ o, mirror .horizontal a = some o ∧ o.toNat = a.toNat / 0x800 % 2 * 0x400 + a.toNat % 0x400) ∧
    (∃ o, mirror .vertical a = some o ∧ o.toNat = a.toNat / 0x400 % 2 * 0x400 + a.toNat % 0x400)) ∧
  (∀ (m : Mirroring) (a : BusAddr), 0x2000 ≤ a.toNat →
    mirror m (a ||| 0x1000#14) = mirror m a ∧ mirror m (a &&& ~~~0x1000#14) = mirror m a) ∧
  (∀ a : BusAddr, 0x2000 ≤ a.toNat →
    mirror .horizontal (a ^^^ 0x0400#14) = mirror .horizontal a ∧
    mirror .vertical (a ^^^ 0x0800#14) = mirror .vertical a) ∧
  (∀ (m : Mirroring) (o : BitVec 11), ∃ a b : BusAddr, a ≠ b ∧
    0x2000 ≤ a.toNat ∧ a.toNat ≤ 0x2FFF ∧ 0x2000 ≤ b.toNat ∧ b.toNat ≤ 0x2FFF ∧
    ∀ c : BusAddr, 0x2000 ≤ c.toNat → c.toNat ≤ 0x2FFF → (mirror m c = some o ↔ c = a ∨ c = b))

/-- `palidx`, 20_memory.md R56: the four redirected addresses, the direct ones, no value elsewhere, and the four cells
outside its image (the last is derived there; no value elsewhere is the model's, notes/assumptions/20.md). -/
def Obligations.PalidxRedirectsFourAddresses : Prop :=
  ∀ a : BusAddr,
    (a.toNat < 0x3F00 ∨ 0x3F1F < a.toNat → palidx a = none) ∧
    (0x3F00 ≤ a.toNat → a.toNat ≤ 0x3F1F →
      ∃ i, palidx a = some i ∧
        (a.toNat = 0x3F10 ∨ a.toNat = 0x3F14 ∨ a.toNat = 0x3F18 ∨ a.toNat = 0x3F1C → i.toNat = a.toNat - 0x3F10) ∧
        (¬(a.toNat = 0x3F10 ∨ a.toNat = 0x3F14 ∨ a.toNat = 0x3F18 ∨ a.toNat = 0x3F1C) → i.toNat = a.toNat - 0x3F00) ∧
        i ∉ [0x10#5, 0x14, 0x18, 0x1C])

/-- 20_memory.md R56, derived there: no operation writes the four cells outside the image of `palidx`. -/
def Obligations.FourPaletteCellsNeverChange : Prop :=
  ∀ (i : Instr) (s t : State), exec i s = .next t →
    ∀ k ∈ [0x10, 0x14, 0x18, 0x1C], Memory.read t.palette k = Memory.read s.palette k

/-- WRITE_DATA, 41_data_port.md R120 with the advance of R121: by range of the address in `v`. Where a byte is stored,
it reads back at the cell the address functions give, and every other cell reads as before (0x3F20 and above is decision
D13, the reduction of the advance D25). -/
def Obligations.WriteDataByRange : Prop :=
  ∀ (d : Byte) (s : State), s.halted = false → Memory.wf s.ram = true → Memory.wf s.palette = true →
    (s.v.toNat ≤ 0x1FFF → ∃ t, exec (.writeData d) s = .next t ∧ t.out.diag = some ⟨s.v, d⟩ ∧
      t = { s with v := t.v, out := Response.dropped s.v d } ∧
      t.v.toNat = (s.v.toNat + if s.ctrl.getLsbD s.cfg.ctrlIncBit.val then 32 else 1) % 0x4000) ∧
    (0x2000 ≤ s.v.toNat → s.v.toNat ≤ 0x2FFF → ∃ o t, mirror s.mirroring s.v = some o ∧
      exec (.writeData d) s = .next t ∧ Memory.read t.ram o.toNat = d ∧
      (∀ x, x ≠ o.toNat → Memory.read t.ram x = Memory.read s.ram x) ∧
      t = { s with ram := t.ram, v := t.v, out := Response.none } ∧
      t.v.toNat = (s.v.toNat + if s.ctrl.getLsbD s.cfg.ctrlIncBit.val then 32 else 1) % 0x4000) ∧
    (0x3000 ≤ s.v.toNat → s.v.toNat ≤ 0x3EFF → exec (.writeData d) s = .fault (.mirrorWindowAccess s.v)) ∧
    (0x3F00 ≤ s.v.toNat → s.v.toNat ≤ 0x3F1F → ∃ i t, palidx s.v = some i ∧
      exec (.writeData d) s = .next t ∧ Memory.read t.palette i.toNat = d ∧
      (∀ x, x ≠ i.toNat → Memory.read t.palette x = Memory.read s.palette x) ∧
      t = { s with palette := t.palette, v := t.v, out := Response.none } ∧
      t.v.toNat = (s.v.toNat + if s.ctrl.getLsbD s.cfg.ctrlIncBit.val then 32 else 1) % 0x4000) ∧
    (0x3F20 ≤ s.v.toNat → exec (.writeData d) s = .fault (.paletteIndexRange s.v))

/-- READ_DATA, 41_data_port.md R123, R125, R126: by range of the address in `v` (decisions D13 to D16 and D25). -/
def Obligations.ReadDataByRange : Prop :=
  ∀ s : State, s.halted = false →
    (s.v.toNat ≤ 0x1FFF → s.v.toNat < s.patternLen → ∃ t, exec .readData s = .next t ∧
      t.out = Response.byte s.buf ∧ t.buf = Memory.read s.pattern s.v.toNat ∧
      t = { s with v := t.v, buf := t.buf, out := t.out } ∧
      t.v.toNat = (s.v.toNat + if s.ctrl.getLsbD s.cfg.ctrlIncBit.val then 32 else 1) % 0x4000) ∧
    (s.v.toNat ≤ 0x1FFF → s.patternLen ≤ s.v.toNat → exec .readData s = .fault (.patternIndexRange s.v)) ∧
    (0x2000 ≤ s.v.toNat → s.v.toNat ≤ 0x2FFF → ∃ o t, mirror s.mirroring s.v = some o ∧
      exec .readData s = .next t ∧ t.out = Response.byte s.buf ∧ t.buf = Memory.read s.ram o.toNat ∧
      t = { s with v := t.v, buf := t.buf, out := t.out } ∧
      t.v.toNat = (s.v.toNat + if s.ctrl.getLsbD s.cfg.ctrlIncBit.val then 32 else 1) % 0x4000) ∧
    (0x3000 ≤ s.v.toNat → s.v.toNat ≤ 0x3EFF → exec .readData s = .fault (.mirrorWindowAccess s.v)) ∧
    (0x3F00 ≤ s.v.toNat → s.v.toNat ≤ 0x3F1F → ∃ i t, palidx s.v = some i ∧
      exec .readData s = .next t ∧ t.out = Response.byte (Memory.read s.palette i.toNat) ∧
      t = { s with v := t.v, out := t.out } ∧
      t.v.toNat = (s.v.toNat + if s.ctrl.getLsbD s.cfg.ctrlIncBit.val then 32 else 1) % 0x4000) ∧
    (0x3F20 ≤ s.v.toNat → exec .readData s = .fault (.paletteIndexRange s.v))

/-- The data port completes exactly at the addresses `Safety` calls legal (20_memory.md R51 with decisions D13, D16). -/
def Obligations.DataPortCompletesExactlyWhereLegal : Prop :=
  ∀ s : State, s.halted = false →
    (∀ d, (∃ t, exec (.writeData d) s = .next t) ↔ WriteLegal s.v) ∧
    ((∃ t, exec .readData s = .next t) ↔ ReadLegal s s.v)

/-- 40_register_bank.md R107: from `w_addr = 1` two address bytes and a data byte perform the bus write at
`{h, l} & 0x3FFF`, in the name-table range at its mirrored offset (the spec derives it from R106 and R120). -/
def Obligations.AddressPairThenDataStores : Prop :=
  ∀ (h l b : Byte) (s : State) (a : BusAddr), s.halted = false → s.wAddr = true → Memory.wf s.ram = true →
    a.toNat = (h.toNat * 256 + l.toNat) % 0x4000 →
    (∀ u, busWrite s a b = .ok u → ∃ t, runOps [.writeAddr h, .writeAddr l, .writeData b] s = .next t ∧
      t.ram = u.ram ∧ t.palette = u.palette ∧ t.oam = s.oam ∧ t.pattern = s.pattern) ∧
    (∀ f, busWrite s a b = .error f → runOps [.writeAddr h, .writeAddr l, .writeData b] s = .fault f) ∧
    (0x2000 ≤ a.toNat → a.toNat ≤ 0x2FFF → ∃ o t, mirror s.mirroring a = some o ∧
      runOps [.writeAddr h, .writeAddr l, .writeData b] s = .next t ∧ Memory.read t.ram o.toNat = b ∧
      ∀ x, x ≠ o.toNat → Memory.read t.ram x = Memory.read s.ram x)

/-- 10_state.md R22: `buf` is changed only by a READ_DATA in the pattern or name-table range (decision D15 for the
palette read). -/
def Obligations.BufferChangesOnlyByBufferedRead : Prop :=
  ∀ (i : Instr) (s t : State), exec i s = .next t → t.buf ≠ s.buf → i = .readData ∧ s.v.toNat ≤ 0x2FFF

/-- 41_data_port.md R124, 70_reset_and_hazards.md R221: a non-palette read returns what was buffered before it; the
next one returns the byte at the first one's address, sampled at the time of the first, whatever operations other than
READ_DATA came between (both rules are derived from R123). -/
def Obligations.BufferedReadLaw : Prop :=
  ∀ (s s₁ s₂ s₃ : State) (between : List Instr),
    s.v.toNat ≤ 0x2FFF → exec .readData s = .next s₁ →
    Instr.readData ∉ between → runOps between s₁ = .next s₂ →
    s₂.v.toNat ≤ 0x2FFF → exec .readData s₂ = .next s₃ →
    s₁.out.dout = some s.buf ∧
    (s.v.toNat ≤ 0x1FFF → s₃.out.dout = some (Memory.read s.pattern s.v.toNat)) ∧
    (∀ o, mirror s.mirroring s.v = some o → s₃.out.dout = some (Memory.read s.ram o.toNat))

/-- The source's scenario S7 for every pair of aliased addresses (95_test_vectors.md, P1): a byte poked at one address
is peeked at any address the mirroring unit maps to the same offset. -/
def Obligations.PokeThenPeekThroughAnAlias : Prop :=
  ∀ (a a' : BitVec 16) (x x' : BusAddr) (b : Byte) (s : State), s.halted = false → s.wAddr = true →
    s.ctrl.getLsbD s.cfg.ctrlIncBit.val = false → Memory.wf s.ram = true →
    x.toNat = a.toNat → x'.toNat = a'.toNat → 0x2000 ≤ x.toNat → x.toNat ≤ 0x2FFF → 0x2000 ≤ x'.toNat →
    x'.toNat < 0x2FFF → mirror s.mirroring x = mirror s.mirroring x' →
    ∃ t, runOps (pokeOps a b ++ peekOps a') s = .next t ∧ t.out.dout = some b

/-- 70_reset_and_hazards.md R227, R228: the access after the last legal one faults: past 0x2FFF in the window, past the
palette beyond the table, and with step 32 after any palette access, whatever the two accesses are and whatever byte each
of them writes (derived there; decision D13). -/
def Obligations.RunningOffTheEndFaults : Prop :=
  ∀ (d d' : Byte) (s t : State), exec (.writeData d) s = .next t ∨ exec .readData s = .next t →
    (s.v.toNat ≤ 0x2FFF → 0x3000 ≤ t.v.toNat →
      exec .readData t = .fault (.mirrorWindowAccess t.v) ∧ exec (.writeData d') t = .fault (.mirrorWindowAccess t.v)) ∧
    (0x3F00 ≤ s.v.toNat → (s.v.toNat = 0x3F1F ∨ s.ctrl.getLsbD s.cfg.ctrlIncBit.val = true) →
      exec .readData t = .fault (.paletteIndexRange t.v) ∧ exec (.writeData d') t = .fault (.paletteIndexRange t.v))

/-! ## Sprite memory -/

/-- WRITE_OAM_ADDR, 42_sprite_memory.md R140: its command code, the pointer set, nothing else changed. -/
def Obligations.WriteOamAddrSetsThePointer : Prop :=
  ∀ (d : Byte) (s : State), (∀ block e, decode ⟨0x03#5, d, block, e⟩ = .ok (.writeOamAddr d)) ∧
    (s.halted = false → ∃ r, exec (.writeOamAddr d) s = .next { s with oamAddr := d, out := r })

/-- WRITE_OAM_DATA, R142: its command code, the byte stored at the pointer and no other cell touched, the pointer
incremented modulo 256, nothing else changed. -/
def Obligations.WriteOamDataStoresAndIncrements : Prop :=
  ∀ (d : Byte) (s : State), (∀ block e, decode ⟨0x04#5, d, block, e⟩ = .ok (.writeOamData d)) ∧
    (s.halted = false → Memory.wf s.oam = true →
      ∃ t, exec (.writeOamData d) s = .next t ∧ Memory.read t.oam s.oamAddr.toNat = d ∧
        (∀ x, x ≠ s.oamAddr.toNat → Memory.read t.oam x = Memory.read s.oam x) ∧
        t.oamAddr.toNat = (s.oamAddr.toNat + 1) % 256 ∧
        t = { s with oam := t.oam, oamAddr := t.oamAddr, out := t.out })

/-- READ_OAM_DATA, R143: its command code, the byte at the pointer, no state changed. -/
def Obligations.ReadOamDataHasNoSideEffect : Prop :=
  ∀ s : State, (∀ d block e, decode ⟨0x0C#5, d, block, e⟩ = .ok .readOamData) ∧
    (s.halted = false → ∃ r, exec .readOamData s = .next { s with out := r } ∧
      r.dout = some (Memory.read s.oam s.oamAddr.toNat))

/-- OAM_DMA, R144: block element `i` lands at `(p + i) mod 256`, nothing outside the 256 cells is written, and the
pointer is back at `p` (the spec derives this from its loop, corner cases (a) and (b)). -/
def Obligations.OamDmaWrapsAround : Prop :=
  ∀ (block : List Byte) (s : State), s.halted = false → block.length = 256 → Memory.wf s.oam = true →
    ∃ t, exec (.oamDma block) s = .next t ∧
      (∀ i, i < 256 → Memory.read t.oam ((s.oamAddr.toNat + i) % 256) = block.getD i 0) ∧
      (∀ x, 256 ≤ x → Memory.read t.oam x = Memory.read s.oam x) ∧
      t = { s with oam := t.oam, out := Response.none }

/-- R145, derived there: OAM_DMA has exactly the effect of 256 WRITE_OAM_DATA in order. -/
def Obligations.OamDmaIsTwoHundredFiftySixWrites : Prop :=
  ∀ (block : List Byte) (s : State), s.halted = false → block.length = 256 →
    exec (.oamDma block) s = runOps (block.map Instr.writeOamData) s

/-- OAM_POKE then OAM_PEEK (30_encoding.md R87) gives the byte back and leaves the pointer at it. -/
def Obligations.OamPokeThenPeek : Prop :=
  ∀ (p b : Byte) (s : State), s.halted = false → Memory.wf s.oam = true →
    ∃ t, runOps (oamPokeOps p b ++ oamPeekOps p) s = .next t ∧ t.out.dout = some b ∧ t.oamAddr = p

/-! ## Timing and the interrupt flag -/

/-- TICK, 43_timing.md R160: its command code; nothing rolls; or one scanline rolls, into scanline 241, over the frame
wrap, or elsewhere; nothing else changed. That a TICK into scanline 241 returns false is the spec's inference (R160, "Step 4
returns false [derived: ...]"); that the operand is one byte, added unscaled, is R161 with decisions D11 and D12
(notes/assumptions/14.md). -/
def Obligations.TickByBoundary : Prop :=
  ∀ (e : Byte) (s : State), (∀ d block, decode ⟨0x11#5, d, block, e⟩ = .ok (.tick e)) ∧
    (s.halted = false → s.cfg.bitsDistinct →
      (s.cycles.toNat + e.toNat < 341 → ∃ t, exec (.tick e) s = .next t ∧
        t.cycles.toNat = s.cycles.toNat + e.toNat ∧ t.out.frameComplete = some false ∧
        t = { s with cycles := t.cycles, out := t.out }) ∧
      (341 ≤ s.cycles.toNat + e.toNat → ∃ t, exec (.tick e) s = .next t ∧
        t.cycles.toNat = s.cycles.toNat + e.toNat - 341 ∧
        (s.scanline.toNat = 240 →
          t.scanline.toNat = 241 ∧ t.out.frameComplete = some false ∧
          (t.nmi = true ↔ s.nmi = true ∨ s.ctrl.getLsbD s.cfg.ctrlNmiBit.val = true) ∧
          (∀ j : Fin 8, t.status.getLsbD j.val = if j = s.cfg.statusVblankBit then true
            else if j = s.cfg.statusSprite0Bit then false else s.status.getLsbD j.val) ∧
          t = { s with cycles := t.cycles, scanline := t.scanline, status := t.status, nmi := t.nmi, out := t.out }) ∧
        (261 ≤ s.scanline.toNat →
          t.scanline.toNat = 0 ∧ t.nmi = false ∧ t.out.frameComplete = some true ∧
          (∀ j : Fin 8, t.status.getLsbD j.val =
            if j = s.cfg.statusVblankBit ∨ j = s.cfg.statusSprite0Bit then false else s.status.getLsbD j.val) ∧
          t = { s with cycles := t.cycles, scanline := t.scanline, status := t.status, nmi := t.nmi, out := t.out }) ∧
        (s.scanline.toNat ≠ 240 → s.scanline.toNat < 261 →
          t.scanline.toNat = s.scanline.toNat + 1 ∧ t.out.frameComplete = some false ∧
          t = { s with cycles := t.cycles, scanline := t.scanline, out := t.out })))

/-- NMI_ACK, R162: its command code, `nmi` cleared, nothing else changed. -/
def Obligations.NmiAckClearsTheFlag : Prop :=
  ∀ s : State, (∀ d block e, decode ⟨0x12#5, d, block, e⟩ = .ok .nmiAck) ∧
    (s.halted = false → ∃ r, exec .nmiAck s = .next { s with nmi := false, out := r })

/-- 43_timing.md R163: from any frame position, after any run of TICKs the position is the running sum reduced, and
TICK has returned true once for each frame the sum completes (derived there by induction). -/
def Obligations.TickRunClosedForm : Prop :=
  ∀ (es : List Byte) (s : State), s.halted = false → s.cycles.toNat < 341 → s.scanline.toNat < 262 →
    ∃ t, runOps (es.map Instr.tick) s = .next t ∧
      t.cycles.toNat = (s.scanline.toNat * 341 + s.cycles.toNat + (es.map BitVec.toNat).sum) % 341 ∧
      t.scanline.toNat = (s.scanline.toNat * 341 + s.cycles.toNat + (es.map BitVec.toNat).sum) / 341 % 262 ∧
      framesCompleted es s = (s.scanline.toNat * 341 + s.cycles.toNat + (es.map BitVec.toNat).sum) / 89342

/-- R163, call by call: a TICK returns true exactly when the running sum within the frame reaches 89342, and VBLANK
rises exactly when it reaches 82181 (341 x 241); derived there. -/
def Obligations.TickEventsByPosition : Prop :=
  ∀ (e : Byte) (s t : State), s.cycles.toNat < 341 → s.scanline.toNat < 262 → s.cfg.bitsDistinct →
    exec (.tick e) s = .next t →
    (t.out.frameComplete = some true ↔ 89342 ≤ s.scanline.toNat * 341 + s.cycles.toNat + e.toNat) ∧
    (s.status.getLsbD s.cfg.statusVblankBit.val = false →
      (t.status.getLsbD s.cfg.statusVblankBit.val = true ↔
        s.scanline.toNat * 341 + s.cycles.toNat < 82181 ∧
        82181 ≤ s.scanline.toNat * 341 + s.cycles.toNat + e.toNat))

/-- 70_reset_and_hazards.md R230, derived there: splitting a count into several TICKs does not change the final
counters. -/
def Obligations.SplitTicksReachTheSamePosition : Prop :=
  ∀ (es es' : List Byte) (s t t' : State), s.cycles.toNat < 341 → s.scanline.toNat < 262 →
    (es.map BitVec.toNat).sum = (es'.map BitVec.toNat).sum →
    runOps (es.map Instr.tick) s = .next t → runOps (es'.map Instr.tick) s = .next t' →
    t.cycles = t'.cycles ∧ t.scanline = t'.scanline

/-- 60_exceptions.md R188: `nmi` is raised in exactly two places and cleared in exactly two (that clearing the enable
keeps a pending flag is derived there). -/
def Obligations.InterruptRaisedAndClearedInTwoPlaces : Prop :=
  ∀ (i : Instr) (s t : State), exec i s = .next t →
    (s.nmi = false → (t.nmi = true ↔
      (∃ e, i = .tick e ∧ 341 ≤ s.cycles.toNat + e.toNat ∧ s.scanline.toNat = 240 ∧
        s.ctrl.getLsbD s.cfg.ctrlNmiBit.val = true) ∨
      (∃ d, i = .writeCtrl d ∧ s.ctrl.getLsbD s.cfg.ctrlNmiBit.val = false ∧
        d.getLsbD s.cfg.ctrlNmiBit.val = true ∧ s.status.getLsbD s.cfg.statusVblankBit.val = true))) ∧
    (s.nmi = true → (t.nmi = false ↔
      (∃ e, i = .tick e ∧ 341 ≤ s.cycles.toNat + e.toNat ∧ 261 ≤ s.scanline.toNat) ∨ i = .nmiAck))

/-- 10_state.md R19: which operations set and clear the bits of `status` (the five unnamed bits are decision D29). -/
def Obligations.StatusBitsSetAndCleared : Prop :=
  ∀ (i : Instr) (s t : State), s.cfg.bitsDistinct → exec i s = .next t →
    (∀ j : Fin 8, j ≠ s.cfg.statusVblankBit → j ≠ s.cfg.statusSprite0Bit →
      t.status.getLsbD j.val = s.status.getLsbD j.val) ∧
    (t.status.getLsbD s.cfg.statusSprite0Bit.val = true ↔
      s.status.getLsbD s.cfg.statusSprite0Bit.val = true ∧
        ¬∃ e, i = .tick e ∧ 341 ≤ s.cycles.toNat + e.toNat ∧ (s.scanline.toNat = 240 ∨ 261 ≤ s.scanline.toNat)) ∧
    (t.status.getLsbD s.cfg.statusVblankBit.val = true ↔
      (∃ e, i = .tick e ∧ 341 ≤ s.cycles.toNat + e.toNat ∧ s.scanline.toNat = 240) ∨
      (s.status.getLsbD s.cfg.statusVblankBit.val = true ∧ i ≠ .readStatus ∧
        ¬∃ e, i = .tick e ∧ 341 ≤ s.cycles.toNat + e.toNat ∧ 261 ≤ s.scanline.toNat))

/-- 10_state.md R20: the seven status bits other than VBLANK stay 0 along every run, whatever the driver does
(derived there). -/
def Obligations.OnlyVblankIsEverSet : Prop :=
  ∀ s t : State, s.cfg.bitsDistinct → step s = .next t →
    (∀ j : Fin 8, j ≠ s.cfg.statusVblankBit → s.status.getLsbD j.val = false) →
    (∀ j : Fin 8, j ≠ t.cfg.statusVblankBit → t.status.getLsbD j.val = false)

/-- 70_reset_and_hazards.md R226: a pending interrupt nobody acknowledges stays through the vblank period and is lost at
the frame wrap (171523 is 89342 + 82181, the next vblank entry). -/
def Obligations.PendingInterruptIsLostAtTheWrap : Prop :=
  ∀ (es : List Byte) (s t : State), s.nmi = true → s.cycles.toNat < 341 → 241 ≤ s.scanline.toNat →
    s.scanline.toNat < 262 → runOps (es.map Instr.tick) s = .next t →
    (s.scanline.toNat * 341 + s.cycles.toNat + (es.map BitVec.toNat).sum < 89342 → t.nmi = true) ∧
    (89342 ≤ s.scanline.toNat * 341 + s.cycles.toNat + (es.map BitVec.toNat).sum →
      s.scanline.toNat * 341 + s.cycles.toNat + (es.map BitVec.toNat).sum < 171523 → t.nmi = false)

/-- 60_exceptions.md R189: around the entry to scanline 241 an enable raises in either order; a disable before the TICK
prevents the interrupt, after it leaves it pending (derived there from R188). -/
def Obligations.WriteCtrlOrderAroundVblank : Prop :=
  ∀ (d e : Byte) (s : State), s.halted = false → s.cfg.bitsDistinct → s.nmi = false → s.scanline.toNat = 240 →
    341 ≤ s.cycles.toNat + e.toNat →
    (s.ctrl.getLsbD s.cfg.ctrlNmiBit.val = false → d.getLsbD s.cfg.ctrlNmiBit.val = true →
      (∃ t, runOps [.writeCtrl d, .tick e] s = .next t ∧ t.nmi = true) ∧
      (∃ t, runOps [.tick e, .writeCtrl d] s = .next t ∧ t.nmi = true)) ∧
    (s.ctrl.getLsbD s.cfg.ctrlNmiBit.val = true → d.getLsbD s.cfg.ctrlNmiBit.val = false →
      (∃ t, runOps [.writeCtrl d, .tick e] s = .next t ∧ t.nmi = false) ∧
      (∃ t, runOps [.tick e, .writeCtrl d] s = .next t ∧ t.nmi = true))

/-- 60_exceptions.md R191: with VBLANK still 1, disabling and enabling raises `nmi` again, any number of times. -/
def Obligations.InterruptRetriggersAnyNumberOfTimes : Prop :=
  ∀ (d₀ d₁ : Byte) (n : Nat) (s : State), s.halted = false →
    s.status.getLsbD s.cfg.statusVblankBit.val = true →
    d₀.getLsbD s.cfg.ctrlNmiBit.val = false → d₁.getLsbD s.cfg.ctrlNmiBit.val = true →
    ∃ t, runOps (List.replicate (n + 1) [Instr.nmiAck, .writeCtrl d₀, .writeCtrl d₁]).flatten s = .next t ∧
      t.nmi = true

/-! ## What never matters -/

/-- 10_state.md R12, R18: no operation reads the mask or the scroll bytes; they change nothing but themselves. -/
def Obligations.MaskAndScrollAreOpaque : Prop :=
  ∀ (i : Instr) (s : State) (m x y : Byte), (∀ d, i ≠ .writeMask d) → (∀ d, i ≠ .writeScroll d) →
    match exec i s with
    | .next t => exec i { s with mask := m, scrollX := x, scrollY := y } =
        .next { t with mask := m, scrollX := x, scrollY := y }
    | .fault f => exec i { s with mask := m, scrollX := x, scrollY := y } = .fault f
    | .refused r => exec i { s with mask := m, scrollX := x, scrollY := y } = .refused r

/-- 10_state.md R15: of `ctrl` only the two used bits have an effect; two bytes that agree there act alike (their
positions are decision D5). -/
def Obligations.OtherControlBitsHaveNoEffect : Prop :=
  ∀ (i : Instr) (s : State) (c : Byte),
    c.getLsbD s.cfg.ctrlNmiBit.val = s.ctrl.getLsbD s.cfg.ctrlNmiBit.val →
    c.getLsbD s.cfg.ctrlIncBit.val = s.ctrl.getLsbD s.cfg.ctrlIncBit.val →
    match exec i s with
    | .next t => exec i { s with ctrl := c } =
        .next (match i with
          | .writeCtrl d => { t with ctrl := d }
          | _ => { t with ctrl := c })
    | .fault f => exec i { s with ctrl := c } = .fault f
    | .refused r => exec i { s with ctrl := c } = .refused r

/-- 70_reset_and_hazards.md R232: no operation but TICK depends on the frame position or changes it. -/
def Obligations.NoAccessIsGatedByTheFramePosition : Prop :=
  ∀ (i : Instr) (s : State) (c l : BitVec 9), (∀ e, i ≠ .tick e) →
    match exec i s with
    | .next t => exec i { s with cycles := c, scanline := l } = .next { t with cycles := c, scanline := l }
    | .fault f => exec i { s with cycles := c, scanline := l } = .fault f
    | .refused r => exec i { s with cycles := c, scanline := l } = .refused r
end

