-- ==== Sys2Proof/Laws/Bits.lean ====
section
/-! SUPPORT. The bit-field operations and the address functions pushed down to arithmetic. -/

namespace Sys2Proof.Machine

open Sys2Proof

@[simp] theorem testBit_setBit (x : Byte) (i j : Fin 8) :
    testBit (setBit x i) j = (testBit x j || decide (i = j)) := by
  revert i j
  unfold testBit setBit
  intro i j
  have hi := i.isLt
  have hj := j.isLt
  by_cases h : i = j
  · subst h; simp [hi]
  · have h' : i.val ≠ j.val := fun e => h (Fin.ext e)
    simp only [BitVec.getLsbD_or, BitVec.getLsbD_shiftLeft, BitVec.getLsbD_one, h, decide_false, Bool.or_false]
    by_cases hlt : j.val < i.val
    · simp [hlt]
    · have : j.val - i.val ≠ 0 := by omega
      simp [this]

@[simp] theorem testBit_clearBit (x : Byte) (i j : Fin 8) :
    testBit (clearBit x i) j = (testBit x j && decide (i ≠ j)) := by
  unfold testBit clearBit
  have hi := i.isLt
  have hj := j.isLt
  by_cases h : i = j
  · subst h; simp [hi]
  · have h' : i.val ≠ j.val := fun e => h (Fin.ext e)
    simp only [BitVec.getLsbD_and, BitVec.getLsbD_not, BitVec.getLsbD_shiftLeft, BitVec.getLsbD_one, ne_eq, h,
      not_false_eq_true, decide_true, Bool.and_true]
    by_cases hlt : j.val < i.val
    · simp [hlt]
    · have : j.val - i.val ≠ 0 := by omega
      simp [this]

/-- Bytes with the same eight bits are equal. -/
theorem byte_ext {x y : Byte} (h : ∀ j : Fin 8, testBit x j = testBit y j) : x = y := by
  apply BitVec.eq_of_getLsbD_eq
  intro i hi
  exact h ⟨i, hi⟩

theorem addrStep_eq (cfg : Config) (ctrl : Byte) : addrStep cfg ctrl = 1 ∨ addrStep cfg ctrl = 32 := by
  unfold addrStep
  split
  · exact .inr rfl
  · exact .inl rfl

theorem advanced_toNat (cfg : Config) (ctrl : Byte) (v : BusAddr) :
    (advanced cfg ctrl v).toNat = (v.toNat + addrStep cfg ctrl) % 0x4000 := by
  simp [advanced, BitVec.toNat_add]

theorem nextSprite_toNat (p : Byte) : (nextSprite p).toNat = (p.toNat + 1) % 256 := by
  simp [nextSprite, BitVec.toNat_add]

theorem withHighByte_toNat (v : BusAddr) (din : Byte) :
    (withHighByte v din).toNat = din.toNat % 64 * 256 + v.toNat % 256 := by
  simp only [withHighByte, BitVec.toNat_append, BitVec.extractLsb'_toNat, Nat.shiftRight_zero]
  rw [← Nat.shiftLeft_add_eq_or_of_lt (by omega), Nat.shiftLeft_eq]

theorem withLowByte_toNat (v : BusAddr) (din : Byte) :
    (withLowByte v din).toNat = v.toNat / 256 * 256 + din.toNat := by
  have hv := v.isLt
  have hd := din.isLt
  simp only [withLowByte, BitVec.toNat_append, BitVec.extractLsb'_toNat, Nat.shiftRight_eq_div_pow]
  rw [← Nat.shiftLeft_add_eq_or_of_lt (by omega), Nat.shiftLeft_eq]
  omega

theorem setAddr_toNat (v : BusAddr) (h l : Byte) :
    (withLowByte (withHighByte v h) l).toNat = h.toNat % 64 * 256 + l.toNat := by
  rw [withLowByte_toNat, withHighByte_toNat]
  omega

/-- Clearing bit 12 folds 0x3000 to 0x3FFF onto 0x2000 to 0x2FFF (20_memory.md R54). -/
theorem fold_toNat (a : BusAddr) : (a &&& 0x2FFF#14).toNat = a.toNat / 0x2000 * 0x2000 + a.toNat % 0x1000 := by
  have ha := a.isLt
  have hand : a.toNat &&& 0x2FFF = (a.toNat / 0x1000 &&& 2) * 2 ^ 12 + (a.toNat % 0x1000 &&& 0xFFF) := by
    apply Nat.eq_of_testBit_eq
    intro i
    have hlt : (a.toNat % 0x1000 &&& 0xFFF) < 2 ^ 12 := Nat.lt_of_le_of_lt Nat.and_le_left (by omega)
    rw [Nat.mul_comm, Nat.testBit_two_pow_mul_add _ hlt, Nat.testBit_and, Nat.testBit_and, Nat.testBit_and]
    by_cases hi : i < 12
    · simp only [hi, if_true]
      have e1 : (a.toNat % 0x1000).testBit i = a.toNat.testBit i := by
        have := Nat.testBit_mod_two_pow a.toNat 12 i
        simpa [hi] using this
      have e2 : Nat.testBit 0x2FFF i = Nat.testBit 0xFFF i := by
        interval_cases i <;> rfl
      rw [e1, e2]
    · simp only [hi, if_false]
      have e1 : (a.toNat / 0x1000).testBit (i - 12) = a.toNat.testBit i := by
        have := Nat.testBit_div_two_pow a.toNat (n := 12) (i - 12)
        rw [show (0x1000 : Nat) = 2 ^ 12 by norm_num, this]
        congr 1; omega
      have e2 : Nat.testBit 0x2FFF i = Nat.testBit 2 (i - 12) := by
        have := Nat.testBit_two_pow_mul_add (i := 12) 2 (b := 0xFFF) (by norm_num) i
        rw [show (2 ^ 12 * 2 + 0xFFF : Nat) = 0x2FFF by norm_num] at this
        simpa [hi] using this
      rw [e1, e2]
  have hq : a.toNat / 0x1000 < 4 := by omega
  have hq2 : (a.toNat / 0x1000 &&& 2) = a.toNat / 0x2000 * 2 := by
    rw [show (0x2000 : Nat) = 0x1000 * 2 by norm_num, ← Nat.div_div_eq_div_mul]
    generalize a.toNat / 0x1000 = q at hq
    interval_cases q <;> rfl
  have hl : (a.toNat % 0x1000 &&& 0xFFF) = a.toNat % 0x1000 := by
    have := Nat.and_two_pow_sub_one_eq_mod (a.toNat % 0x1000) 12
    simpa using this
  simp only [BitVec.toNat_and, BitVec.toNat_ofNat]
  rw [show (0x2FFF % 2 ^ 14 : Nat) = 0x2FFF by norm_num, hand, hq2, hl]
  omega

/-- A bus address as its high four bits and its offset in a kilobyte. -/
theorem busAddr_split (a : BusAddr) : ∃ q r, q < 16 ∧ r < 2 ^ 10 ∧ a.toNat = 2 ^ 10 * q + r :=
  ⟨a.toNat / 1024, a.toNat % 1024, by have := a.isLt; omega, by omega, by omega⟩

theorem or_high (q r k : Nat) (hr : r < 2 ^ 10) : (2 ^ 10 * q + r) ||| (2 ^ 10 * k) = 2 ^ 10 * (q ||| k) + r := by
  apply Nat.eq_of_testBit_eq
  intro i
  rw [Nat.testBit_or, Nat.testBit_two_pow_mul_add _ hr, Nat.testBit_two_pow_mul_add _ hr, Nat.testBit_two_pow_mul]
  by_cases h : i < 10
  · have : ¬10 ≤ i := by omega
    simp [h, this]
  · have : 10 ≤ i := by omega
    simp [h, this, Nat.testBit_or]

theorem xor_high (q r k : Nat) (hr : r < 2 ^ 10) : (2 ^ 10 * q + r) ^^^ (2 ^ 10 * k) = 2 ^ 10 * (q ^^^ k) + r := by
  apply Nat.eq_of_testBit_eq
  intro i
  rw [Nat.testBit_xor, Nat.testBit_two_pow_mul_add _ hr, Nat.testBit_two_pow_mul_add _ hr, Nat.testBit_two_pow_mul]
  by_cases h : i < 10
  · have : ¬10 ≤ i := by omega
    simp [h, this]
  · have : 10 ≤ i := by omega
    simp [h, this, Nat.testBit_xor]

/-- Setting bit 12. -/
theorem or_bit12_toNat (a : BusAddr) :
    (a ||| 0x1000#14).toNat = a.toNat / 0x2000 * 0x2000 + 0x1000 + a.toNat % 0x1000 := by
  obtain ⟨q, r, hq, hr, e⟩ := busAddr_split a
  have key : ∀ q, q < 16 → q ||| 4 = q / 8 * 8 + 4 + q % 4 := by decide
  rw [BitVec.toNat_or, e, show (0x1000#14).toNat = 2 ^ 10 * 4 from rfl, or_high q r 4 hr, key q hq]
  omega

/-- Flipping bit 10. -/
theorem xor_bit10_toNat (a : BusAddr) :
    (a ^^^ 0x0400#14).toNat = a.toNat / 0x800 * 0x800 + (a.toNat + 0x400) % 0x800 := by
  obtain ⟨q, r, hq, hr, e⟩ := busAddr_split a
  have key : ∀ q, q < 16 → q ^^^ 1 = q / 2 * 2 + (q + 1) % 2 := by decide
  rw [BitVec.toNat_xor, e, show (0x0400#14).toNat = 2 ^ 10 * 1 from rfl, xor_high q r 1 hr, key q hq]
  omega

/-- Flipping bit 11. -/
theorem xor_bit11_toNat (a : BusAddr) :
    (a ^^^ 0x0800#14).toNat = a.toNat / 0x1000 * 0x1000 + (a.toNat + 0x800) % 0x1000 := by
  obtain ⟨q, r, hq, hr, e⟩ := busAddr_split a
  have key : ∀ q, q < 16 → q ^^^ 2 = q / 4 * 4 + (q + 2) % 4 := by decide
  rw [BitVec.toNat_xor, e, show (0x0800#14).toNat = 2 ^ 10 * 2 from rfl, xor_high q r 2 hr, key q hq]
  omega

/-- `mirror` in plain arithmetic: the index is the address modulo 0x1000. -/
theorem mirror_eq (m : Mirroring) (a : BusAddr) (ha : 0x2000 ≤ a.toNat) :
    mirror m a = some (BitVec.ofNat 11 (a.toNat % 0x1000 - tableOffset m (a.toNat % 0x1000 / 0x400))) := by
  have hlt := a.isLt
  have hidx : (a &&& 0x2FFF#14).toNat - 0x2000 = a.toNat % 0x1000 := by rw [fold_toNat]; omega
  simp only [mirror, hidx]
  rw [if_neg (by omega)]

theorem mirror_below (m : Mirroring) (a : BusAddr) (ha : a.toNat < 0x2000) : mirror m a = none := by
  simp [mirror, ha]

/-- The subtraction leaves an offset inside the 2048 bytes. -/
theorem mirror_range (m : Mirroring) (x : Nat) (hx : x < 0x1000) : x - tableOffset m (x / 0x400) < 0x800 := by
  cases m <;> simp only [tableOffset] <;> split_ifs <;> omega

theorem palidx_eq_some_iff (a : BusAddr) : (∃ i, palidx a = some i) ↔ 0x3F00 ≤ a.toNat ∧ a.toNat ≤ 0x3F1F := by
  unfold palidx
  split
  · constructor
    · rintro ⟨i, hi⟩; simp at hi
    · intro h; omega
  · constructor
    · intro _; omega
    · intro _; split <;> exact ⟨_, rfl⟩

theorem busTarget_pattern {m : Mirroring} {a : BusAddr} (h : a.toNat ≤ 0x1FFF) : busTarget m a = .pattern := by
  simp [busTarget, h]

theorem busTarget_ram {m : Mirroring} {a : BusAddr} (h₁ : 0x2000 ≤ a.toNat) (h₂ : a.toNat ≤ 0x2FFF) :
    ∃ o, mirror m a = some o ∧ busTarget m a = .ram o := by
  refine ⟨_, mirror_eq m a h₁, ?_⟩
  unfold busTarget
  rw [if_neg (by omega), if_pos h₂, mirror_eq m a h₁]

theorem busTarget_window {m : Mirroring} {a : BusAddr} (h₁ : 0x3000 ≤ a.toNat) (h₂ : a.toNat ≤ 0x3EFF) :
    busTarget m a = .nothing (.mirrorWindowAccess a) := by
  unfold busTarget
  rw [if_neg (by omega), if_neg (by omega), if_pos h₂]

theorem busTarget_palette {m : Mirroring} {a : BusAddr} (h₁ : 0x3F00 ≤ a.toNat) (h₂ : a.toNat ≤ 0x3F1F) :
    ∃ i, palidx a = some i ∧ busTarget m a = .palette i := by
  obtain ⟨i, hi⟩ := (palidx_eq_some_iff a).2 ⟨h₁, h₂⟩
  refine ⟨i, hi, ?_⟩
  unfold busTarget
  rw [if_neg (by omega), if_neg (by omega), if_neg (by omega), if_pos h₂, hi]

theorem busTarget_past_palette {m : Mirroring} {a : BusAddr} (h₁ : 0x3F20 ≤ a.toNat) :
    busTarget m a = .nothing (.paletteIndexRange a) := by
  have := a.isLt
  unfold busTarget
  rw [if_neg (by omega), if_neg (by omega), if_neg (by omega), if_neg (by omega), if_pos (by omega)]

/-- Everything the routing can answer, by range of the address. -/
theorem busTarget_cases (m : Mirroring) (a : BusAddr) :
    (a.toNat ≤ 0x1FFF ∧ busTarget m a = .pattern) ∨
    (0x2000 ≤ a.toNat ∧ a.toNat ≤ 0x2FFF ∧ ∃ o, mirror m a = some o ∧ busTarget m a = .ram o) ∨
    (0x3000 ≤ a.toNat ∧ a.toNat ≤ 0x3EFF ∧ busTarget m a = .nothing (.mirrorWindowAccess a)) ∨
    (0x3F00 ≤ a.toNat ∧ a.toNat ≤ 0x3F1F ∧ ∃ i, palidx a = some i ∧ busTarget m a = .palette i) ∨
    (0x3F20 ≤ a.toNat ∧ busTarget m a = .nothing (.paletteIndexRange a)) := by
  by_cases h1 : a.toNat ≤ 0x1FFF
  · exact .inl ⟨h1, busTarget_pattern h1⟩
  by_cases h2 : a.toNat ≤ 0x2FFF
  · exact .inr (.inl ⟨by omega, h2, busTarget_ram (by omega) h2⟩)
  by_cases h3 : a.toNat ≤ 0x3EFF
  · exact .inr (.inr (.inl ⟨by omega, h3, busTarget_window (by omega) h3⟩))
  by_cases h4 : a.toNat ≤ 0x3F1F
  · exact .inr (.inr (.inr (.inl ⟨by omega, h4, busTarget_palette (by omega) h4⟩)))
  · exact .inr (.inr (.inr (.inr ⟨by omega, busTarget_past_palette (by omega)⟩)))

end Sys2Proof.Machine
end

