-- ==== Sys2Proof/Laws/PerInstr.lean ====
section
/-! SUPPORT. Facts about every operation as syntax, one lemma per constructor of `Instr`. -/

namespace Sys2Proof.Laws.RoundTrip

open Sys2Proof

/-- On the ports: an operation presented by the encoder decodes to itself. -/
def Statement (i : Instr) : Prop := i.wellFormed = true → decode (encode i) = .ok i

theorem writeCtrl (din : Byte) : Statement (.writeCtrl din) := fun _ => by
  simp [decode, encode, decodeCommand, cmdGrp, cmdRw, cmdSel, decodeWrite, Instr.wellFormed]
theorem writeMask (din : Byte) : Statement (.writeMask din) := fun _ => by
  simp [decode, encode, decodeCommand, cmdGrp, cmdRw, cmdSel, decodeWrite, Instr.wellFormed]
theorem readStatus : Statement .readStatus := fun _ => rfl
theorem writeOamAddr (din : Byte) : Statement (.writeOamAddr din) := fun _ => by
  simp [decode, encode, decodeCommand, cmdGrp, cmdRw, cmdSel, decodeWrite, Instr.wellFormed]
theorem writeOamData (din : Byte) : Statement (.writeOamData din) := fun _ => by
  simp [decode, encode, decodeCommand, cmdGrp, cmdRw, cmdSel, decodeWrite, Instr.wellFormed]
theorem readOamData : Statement .readOamData := fun _ => rfl
theorem writeScroll (din : Byte) : Statement (.writeScroll din) := fun _ => by
  simp [decode, encode, decodeCommand, cmdGrp, cmdRw, cmdSel, decodeWrite, Instr.wellFormed]
theorem writeAddr (din : Byte) : Statement (.writeAddr din) := fun _ => by
  simp [decode, encode, decodeCommand, cmdGrp, cmdRw, cmdSel, decodeWrite, Instr.wellFormed]
theorem writeData (din : Byte) : Statement (.writeData din) := fun _ => by
  simp [decode, encode, decodeCommand, cmdGrp, cmdRw, cmdSel, decodeWrite, Instr.wellFormed]
theorem readData : Statement .readData := fun _ => rfl
theorem oamDma (block : List Byte) : Statement (.oamDma block) := fun h => by
  simp [decode, encode, decodeCommand, cmdGrp, cmdFn, decodeSystem, h]
theorem tick (elapsed : Byte) : Statement (.tick elapsed) := fun _ => by
  simp [decode, encode, decodeCommand, cmdGrp, cmdFn, decodeSystem, Instr.wellFormed]
theorem nmiAck : Statement .nmiAck := fun _ => rfl

end Sys2Proof.Laws.RoundTrip

namespace Sys2Proof.Laws.CommandPort

open Sys2Proof

/-- The encoder puts the command code of R82 on `cmd`. -/
def Statement (i : Instr) : Prop := (encode i).cmd = i.command

theorem writeCtrl (din : Byte) : Statement (.writeCtrl din) := rfl
theorem writeMask (din : Byte) : Statement (.writeMask din) := rfl
theorem readStatus : Statement .readStatus := rfl
theorem writeOamAddr (din : Byte) : Statement (.writeOamAddr din) := rfl
theorem writeOamData (din : Byte) : Statement (.writeOamData din) := rfl
theorem readOamData : Statement .readOamData := rfl
theorem writeScroll (din : Byte) : Statement (.writeScroll din) := rfl
theorem writeAddr (din : Byte) : Statement (.writeAddr din) := rfl
theorem writeData (din : Byte) : Statement (.writeData din) := rfl
theorem readData : Statement .readData := rfl
theorem oamDma (block : List Byte) : Statement (.oamDma block) := rfl
theorem tick (elapsed : Byte) : Statement (.tick elapsed) := rfl
theorem nmiAck : Statement .nmiAck := rfl

end Sys2Proof.Laws.CommandPort
end

