-- ==== Sys2Proof/Laws/Encoding.lean ====
section
/-! SUPPORT. Packing bytes into a number and back, and the decoder's only answers. -/

namespace Sys2Proof

theorem packBytes_lt (bs : List Byte) : packBytes bs < 2 ^ (8 * bs.length) := by
  induction bs with
  | nil => simp [packBytes]
  | cons b bs ih =>
    have hb := b.isLt
    have e : 2 ^ (8 * (b :: bs).length) = 256 * 2 ^ (8 * bs.length) := by
      rw [List.length_cons, Nat.mul_succ, Nat.pow_add]; norm_num; ring
    rw [e, packBytes]
    omega

@[simp] theorem unpackBytes_length (n w : Nat) : (unpackBytes n w).length = n := by
  induction n generalizing w with
  | zero => rfl
  | succ n ih => simp [unpackBytes, ih]

theorem unpackBytes_packBytes (bs : List Byte) : unpackBytes bs.length (packBytes bs) = bs := by
  induction bs with
  | nil => rfl
  | cons b bs ih =>
    have hb := b.isLt
    have h1 : BitVec.ofNat 8 (b.toNat + 256 * packBytes bs) = b := by
      apply BitVec.eq_of_toNat_eq
      simp only [BitVec.toNat_ofNat]
      omega
    have h2 : (b.toNat + 256 * packBytes bs) / 256 = packBytes bs := by omega
    simp only [List.length_cons, packBytes, unpackBytes, h1, h2, ih]

/-! Each command code's operation, whatever stands on the ports it does not use. -/

@[simp] theorem decode_writeCtrl (d : Byte) (block : List Byte) (e : Byte) :
    decode ⟨0x00#5, d, block, e⟩ = .ok (.writeCtrl d) := by
  simp [decode, decodeCommand, cmdGrp, cmdRw, cmdSel, decodeWrite, Instr.wellFormed]

@[simp] theorem decode_writeMask (d : Byte) (block : List Byte) (e : Byte) :
    decode ⟨0x01#5, d, block, e⟩ = .ok (.writeMask d) := by
  simp [decode, decodeCommand, cmdGrp, cmdRw, cmdSel, decodeWrite, Instr.wellFormed]

@[simp] theorem decode_readStatus (d : Byte) (block : List Byte) (e : Byte) :
    decode ⟨0x0A#5, d, block, e⟩ = .ok .readStatus := by
  simp [decode, decodeCommand, cmdGrp, cmdRw, cmdSel, decodeRead, Instr.wellFormed]

@[simp] theorem decode_writeOamAddr (d : Byte) (block : List Byte) (e : Byte) :
    decode ⟨0x03#5, d, block, e⟩ = .ok (.writeOamAddr d) := by
  simp [decode, decodeCommand, cmdGrp, cmdRw, cmdSel, decodeWrite, Instr.wellFormed]

@[simp] theorem decode_writeOamData (d : Byte) (block : List Byte) (e : Byte) :
    decode ⟨0x04#5, d, block, e⟩ = .ok (.writeOamData d) := by
  simp [decode, decodeCommand, cmdGrp, cmdRw, cmdSel, decodeWrite, Instr.wellFormed]

@[simp] theorem decode_readOamData (d : Byte) (block : List Byte) (e : Byte) :
    decode ⟨0x0C#5, d, block, e⟩ = .ok .readOamData := by
  simp [decode, decodeCommand, cmdGrp, cmdRw, cmdSel, decodeRead, Instr.wellFormed]

@[simp] theorem decode_writeScroll (d : Byte) (block : List Byte) (e : Byte) :
    decode ⟨0x05#5, d, block, e⟩ = .ok (.writeScroll d) := by
  simp [decode, decodeCommand, cmdGrp, cmdRw, cmdSel, decodeWrite, Instr.wellFormed]

@[simp] theorem decode_writeAddr (d : Byte) (block : List Byte) (e : Byte) :
    decode ⟨0x06#5, d, block, e⟩ = .ok (.writeAddr d) := by
  simp [decode, decodeCommand, cmdGrp, cmdRw, cmdSel, decodeWrite, Instr.wellFormed]

@[simp] theorem decode_writeData (d : Byte) (block : List Byte) (e : Byte) :
    decode ⟨0x07#5, d, block, e⟩ = .ok (.writeData d) := by
  simp [decode, decodeCommand, cmdGrp, cmdRw, cmdSel, decodeWrite, Instr.wellFormed]

@[simp] theorem decode_readData (d : Byte) (block : List Byte) (e : Byte) :
    decode ⟨0x0F#5, d, block, e⟩ = .ok .readData := by
  simp [decode, decodeCommand, cmdGrp, cmdRw, cmdSel, decodeRead, Instr.wellFormed]

@[simp] theorem decode_tick (d : Byte) (block : List Byte) (e : Byte) :
    decode ⟨0x11#5, d, block, e⟩ = .ok (.tick e) := by
  simp [decode, decodeCommand, cmdGrp, cmdFn, decodeSystem, Instr.wellFormed]

@[simp] theorem decode_nmiAck (d : Byte) (block : List Byte) (e : Byte) :
    decode ⟨0x12#5, d, block, e⟩ = .ok .nmiAck := by
  simp [decode, decodeCommand, cmdGrp, cmdFn, decodeSystem, Instr.wellFormed]

theorem decode_oamDma (d : Byte) {block : List Byte} (e : Byte) (h : block.length = oamSize) :
    decode ⟨0x10#5, d, block, e⟩ = .ok (.oamDma block) := by
  simp [decode, decodeCommand, cmdGrp, cmdFn, decodeSystem, Instr.wellFormed, h]

end Sys2Proof
end

