-- ==== Sys2Proof/Laws/Memory.lean ====
section
/-! SUPPORT. The laws of the sparse memories: read after write, the canonical form and the size bound kept by every
operation, and equal reads meaning equal memories. -/

namespace Sys2Proof

@[simp] theorem Memory.read_nil (a : Nat) : Memory.read [] a = Memory.unlisted := rfl

theorem Memory.wfFrom_cons {lo k : Nat} {c : Byte} {m : Memory} :
    Memory.wfFrom lo ((k, c) :: m) = true ↔ lo ≤ k ∧ c ≠ Memory.unlisted ∧ Memory.wfFrom (k + 1) m = true := by
  simp [Memory.wfFrom, and_assoc]

theorem Memory.wfFrom_mono {lo lo' : Nat} {m : Memory} (h : Memory.wfFrom lo m = true) (hle : lo' ≤ lo) :
    Memory.wfFrom lo' m = true := by
  cases m with
  | nil => rfl
  | cons c m =>
    obtain ⟨k, c⟩ := c
    rw [Memory.wfFrom_cons] at *
    exact ⟨by omega, h.2⟩

theorem Memory.read_below_first {lo a : Nat} {m : Memory} (h : Memory.wfFrom lo m = true) (ha : a < lo) :
    Memory.read m a = Memory.unlisted := by
  induction m generalizing lo with
  | nil => rfl
  | cons c m ih =>
    obtain ⟨k, c⟩ := c
    rw [Memory.wfFrom_cons] at h
    have hne : k ≠ a := by omega
    simp only [Memory.read, hne, if_false]
    exact ih h.2.2 (by omega)

theorem Memory.read_writeFrom_same {lo : Nat} {m : Memory} (a : Nat) (b : Byte) (h : Memory.wfFrom lo m = true) :
    Memory.read (Memory.write m a b) a = b := by
  induction m generalizing lo with
  | nil => unfold Memory.write; split <;> simp_all [Memory.read]
  | cons c m ih =>
    obtain ⟨k, c⟩ := c
    rw [Memory.wfFrom_cons] at h
    unfold Memory.write
    split
    · have hne : k ≠ a := by omega
      simp [Memory.read, hne, ih h.2.2]
    · split
      · split
        · simp_all [Memory.read_below_first h.2.2 (a := a) (by omega)]
        · simp [Memory.read]
      · split
        · have hne : k ≠ a := by omega
          simp_all [Memory.read, Memory.read_below_first h.2.2 (a := a) (by omega)]
        · simp [Memory.read]

/-- A read after a write to the same address gives the byte written. -/
theorem Memory.read_write_same {m : Memory} (a : Nat) (b : Byte) (h : Memory.wf m = true) :
    Memory.read (Memory.write m a b) a = b := Memory.read_writeFrom_same a b h

/-- A write leaves every other address alone. -/
theorem Memory.read_write_other {m : Memory} {a x : Nat} (b : Byte) (hx : x ≠ a) :
    Memory.read (Memory.write m a b) x = Memory.read m x := by
  have hax : a ≠ x := Ne.symm hx
  induction m with
  | nil => unfold Memory.write; split <;> simp [Memory.read, hax]
  | cons c m ih =>
    obtain ⟨k, c⟩ := c
    unfold Memory.write
    split
    · simp [Memory.read, ih]
    · split
      · rename_i hk
        subst hk
        split <;> simp [Memory.read, hax]
      · split <;> simp [Memory.read, hax]

theorem Memory.writeFrom_wf {lo : Nat} {m : Memory} (a : Nat) (b : Byte) (h : Memory.wfFrom lo m = true)
    (hlo : lo ≤ a) : Memory.wfFrom lo (Memory.write m a b) = true := by
  induction m generalizing lo with
  | nil => unfold Memory.write; split <;> simp_all [Memory.wfFrom]
  | cons c m ih =>
    obtain ⟨k, c⟩ := c
    rw [Memory.wfFrom_cons] at h
    unfold Memory.write
    split
    · rw [Memory.wfFrom_cons]
      exact ⟨h.1, h.2.1, ih h.2.2 (by omega)⟩
    · split
      · rename_i hk
        subst hk
        split
        · exact Memory.wfFrom_mono h.2.2 (by omega)
        · rw [Memory.wfFrom_cons]
          exact ⟨h.1, by assumption, h.2.2⟩
      · split
        · rw [Memory.wfFrom_cons]; exact h
        · rw [Memory.wfFrom_cons, Memory.wfFrom_cons]
          exact ⟨hlo, by assumption, by omega, h.2⟩

/-- A write keeps the canonical form. -/
theorem Memory.write_wf {m : Memory} (a : Nat) (b : Byte) (h : Memory.wf m = true) :
    Memory.wf (Memory.write m a b) = true := Memory.writeFrom_wf a b h (Nat.zero_le a)

/-- A write below `size` keeps every listed address below `size`. -/
theorem Memory.write_below {m : Memory} {size a : Nat} (b : Byte) (h : Memory.below size m = true) (ha : a < size) :
    Memory.below size (Memory.write m a b) = true := by
  simp only [Memory.below] at *
  induction m with
  | nil => unfold Memory.write; split <;> simp [ha]
  | cons c m ih =>
    obtain ⟨k, c⟩ := c
    simp only [List.all_cons, Bool.and_eq_true, decide_eq_true_eq] at h
    unfold Memory.write
    split
    · simp only [List.all_cons, Bool.and_eq_true, decide_eq_true_eq]
      exact ⟨h.1, ih h.2⟩
    · split <;> split <;> simp [List.all_cons, ha, h.1, h.2]

theorem Memory.ofBytes_wfFrom (bs : List Byte) : ∀ a, Memory.wfFrom a (Memory.ofBytes a bs) = true := by
  induction bs with
  | nil => intro a; rfl
  | cons b bs ih =>
    intro a
    unfold Memory.ofBytes
    split
    · exact Memory.wfFrom_mono (ih (a + 1)) (by omega)
    · rw [Memory.wfFrom_cons]
      exact ⟨Nat.le_refl a, by assumption, ih (a + 1)⟩

/-- A byte sequence is loaded in canonical form. -/
theorem Memory.ofBytes_wf (bs : List Byte) : Memory.wf (Memory.ofBytes 0 bs) = true := Memory.ofBytes_wfFrom bs 0

/-- A byte sequence lists no address past its end. -/
theorem Memory.ofBytes_below (bs : List Byte) :
    ∀ a, Memory.below (a + bs.length) (Memory.ofBytes a bs) = true := by
  induction bs with
  | nil => intro a; rfl
  | cons b bs ih =>
    intro a
    have h := ih (a + 1)
    have e : a + 1 + bs.length = a + (b :: bs).length := by simp; omega
    rw [e] at h
    unfold Memory.ofBytes
    split
    · exact h
    · simp only [Memory.below, List.all_cons, Bool.and_eq_true, decide_eq_true_eq]
      exact ⟨by simp, h⟩

/-- Byte `n` of a loaded sequence reads back. -/
theorem Memory.read_ofBytes (bs : List Byte) :
    ∀ a n, n < bs.length → Memory.read (Memory.ofBytes a bs) (a + n) = bs.getD n 0 := by
  induction bs with
  | nil => intro a n h; simp at h
  | cons b bs ih =>
    intro a n h
    have hw := Memory.ofBytes_wfFrom bs (a + 1)
    unfold Memory.ofBytes
    cases n with
    | zero =>
      split
      · rename_i hb
        simpa [hb] using Memory.read_below_first hw (a := a) (by omega)
      · simp [Memory.read]
    | succ n =>
      have hn := ih (a + 1) n (by simpa using h)
      have e : a + (n + 1) = a + 1 + n := by omega
      have hne : a ≠ a + 1 + n := by omega
      rw [e]
      split
      · simpa using hn
      · simpa [Memory.read, hne] using hn

theorem Memory.ext_wfFrom {m₁ m₂ : Memory} {lo : Nat} (h₁ : Memory.wfFrom lo m₁ = true)
    (h₂ : Memory.wfFrom lo m₂ = true) (h : ∀ a, Memory.read m₁ a = Memory.read m₂ a) : m₁ = m₂ := by
  induction m₁ generalizing m₂ lo with
  | nil =>
    cases m₂ with
    | nil => rfl
    | cons c m =>
      obtain ⟨k, c⟩ := c
      rw [Memory.wfFrom_cons] at h₂
      have := h k
      simp [Memory.read] at this
      exact absurd this.symm h₂.2.1
  | cons c m ih =>
    obtain ⟨k, c⟩ := c
    have w₁ := Memory.wfFrom_cons.1 h₁
    cases m₂ with
    | nil =>
      have := h k
      simp [Memory.read] at this
      exact absurd this w₁.2.1
    | cons d n =>
      obtain ⟨l, d⟩ := d
      have w₂ := Memory.wfFrom_cons.1 h₂
      have hkl : k = l := by
        rcases Nat.lt_trichotomy k l with hlt | heq | hgt
        · have hk := h k
          have hlk : l ≠ k := by omega
          simp [Memory.read, hlk, Memory.read_below_first w₂.2.2 (a := k) (by omega)] at hk
          exact absurd hk w₁.2.1
        · exact heq
        · have hl := h l
          have hkl : k ≠ l := by omega
          simp [Memory.read, hkl, Memory.read_below_first w₁.2.2 (a := l) (by omega)] at hl
          exact absurd hl.symm w₂.2.1
      subst hkl
      have hcd : c = d := by simpa [Memory.read] using h k
      subst hcd
      have hmn : m = n := by
        apply ih w₁.2.2 w₂.2.2
        intro a
        by_cases hka : k = a
        · subst hka
          rw [Memory.read_below_first w₁.2.2 (by omega), Memory.read_below_first w₂.2.2 (by omega)]
        · simpa [Memory.read, hka] using h a
      rw [hmn]

/-- The form is canonical: memories that read alike are equal. -/
theorem Memory.ext_of_read {m₁ m₂ : Memory} (h₁ : Memory.wf m₁ = true) (h₂ : Memory.wf m₂ = true)
    (h : ∀ a, Memory.read m₁ a = Memory.read m₂ a) : m₁ = m₂ := Memory.ext_wfFrom h₁ h₂ h

end Sys2Proof
end

