-- ==== Sys2Proof/Laws/State.lean ====
section
/-! SUPPORT. One lemma per field per named update of the state, so that no later proof unfolds a record update. -/

namespace Sys2Proof.Machine

open Sys2Proof

@[simp] theorem ramWrite_cfg (s : State) (o : BitVec 11) (b : Byte) : (ramWrite s o b).cfg = s.cfg := rfl
@[simp] theorem ramWrite_mirroring (s : State) (o : BitVec 11) (b : Byte) : (ramWrite s o b).mirroring = s.mirroring := rfl
@[simp] theorem ramWrite_patternLen (s : State) (o : BitVec 11) (b : Byte) : (ramWrite s o b).patternLen = s.patternLen := rfl
@[simp] theorem ramWrite_pattern (s : State) (o : BitVec 11) (b : Byte) : (ramWrite s o b).pattern = s.pattern := rfl
@[simp] theorem ramWrite_v (s : State) (o : BitVec 11) (b : Byte) : (ramWrite s o b).v = s.v := rfl
@[simp] theorem ramWrite_wAddr (s : State) (o : BitVec 11) (b : Byte) : (ramWrite s o b).wAddr = s.wAddr := rfl
@[simp] theorem ramWrite_scrollX (s : State) (o : BitVec 11) (b : Byte) : (ramWrite s o b).scrollX = s.scrollX := rfl
@[simp] theorem ramWrite_scrollY (s : State) (o : BitVec 11) (b : Byte) : (ramWrite s o b).scrollY = s.scrollY := rfl
@[simp] theorem ramWrite_wScroll (s : State) (o : BitVec 11) (b : Byte) : (ramWrite s o b).wScroll = s.wScroll := rfl
@[simp] theorem ramWrite_ctrl (s : State) (o : BitVec 11) (b : Byte) : (ramWrite s o b).ctrl = s.ctrl := rfl
@[simp] theorem ramWrite_mask (s : State) (o : BitVec 11) (b : Byte) : (ramWrite s o b).mask = s.mask := rfl
@[simp] theorem ramWrite_status (s : State) (o : BitVec 11) (b : Byte) : (ramWrite s o b).status = s.status := rfl
@[simp] theorem ramWrite_oamAddr (s : State) (o : BitVec 11) (b : Byte) : (ramWrite s o b).oamAddr = s.oamAddr := rfl
@[simp] theorem ramWrite_buf (s : State) (o : BitVec 11) (b : Byte) : (ramWrite s o b).buf = s.buf := rfl
@[simp] theorem ramWrite_nmi (s : State) (o : BitVec 11) (b : Byte) : (ramWrite s o b).nmi = s.nmi := rfl
@[simp] theorem ramWrite_halted (s : State) (o : BitVec 11) (b : Byte) : (ramWrite s o b).halted = s.halted := rfl
@[simp] theorem ramWrite_cycles (s : State) (o : BitVec 11) (b : Byte) : (ramWrite s o b).cycles = s.cycles := rfl
@[simp] theorem ramWrite_scanline (s : State) (o : BitVec 11) (b : Byte) : (ramWrite s o b).scanline = s.scanline := rfl
@[simp] theorem ramWrite_ram (s : State) (o : BitVec 11) (b : Byte) : (ramWrite s o b).ram = (Memory.write s.ram o.toNat b) := rfl
@[simp] theorem ramWrite_palette (s : State) (o : BitVec 11) (b : Byte) : (ramWrite s o b).palette = s.palette := rfl
@[simp] theorem ramWrite_oam (s : State) (o : BitVec 11) (b : Byte) : (ramWrite s o b).oam = s.oam := rfl
@[simp] theorem ramWrite_out (s : State) (o : BitVec 11) (b : Byte) : (ramWrite s o b).out = s.out := rfl
@[simp] theorem ramWrite_faultOut (s : State) (o : BitVec 11) (b : Byte) : (ramWrite s o b).faultOut = s.faultOut := rfl
@[simp] theorem ramWrite_pending (s : State) (o : BitVec 11) (b : Byte) : (ramWrite s o b).pending = s.pending := rfl

@[simp] theorem palWrite_cfg (s : State) (i : BitVec 5) (b : Byte) : (palWrite s i b).cfg = s.cfg := rfl
@[simp] theorem palWrite_mirroring (s : State) (i : BitVec 5) (b : Byte) : (palWrite s i b).mirroring = s.mirroring := rfl
@[simp] theorem palWrite_patternLen (s : State) (i : BitVec 5) (b : Byte) : (palWrite s i b).patternLen = s.patternLen := rfl
@[simp] theorem palWrite_pattern (s : State) (i : BitVec 5) (b : Byte) : (palWrite s i b).pattern = s.pattern := rfl
@[simp] theorem palWrite_v (s : State) (i : BitVec 5) (b : Byte) : (palWrite s i b).v = s.v := rfl
@[simp] theorem palWrite_wAddr (s : State) (i : BitVec 5) (b : Byte) : (palWrite s i b).wAddr = s.wAddr := rfl
@[simp] theorem palWrite_scrollX (s : State) (i : BitVec 5) (b : Byte) : (palWrite s i b).scrollX = s.scrollX := rfl
@[simp] theorem palWrite_scrollY (s : State) (i : BitVec 5) (b : Byte) : (palWrite s i b).scrollY = s.scrollY := rfl
@[simp] theorem palWrite_wScroll (s : State) (i : BitVec 5) (b : Byte) : (palWrite s i b).wScroll = s.wScroll := rfl
@[simp] theorem palWrite_ctrl (s : State) (i : BitVec 5) (b : Byte) : (palWrite s i b).ctrl = s.ctrl := rfl
@[simp] theorem palWrite_mask (s : State) (i : BitVec 5) (b : Byte) : (palWrite s i b).mask = s.mask := rfl
@[simp] theorem palWrite_status (s : State) (i : BitVec 5) (b : Byte) : (palWrite s i b).status = s.status := rfl
@[simp] theorem palWrite_oamAddr (s : State) (i : BitVec 5) (b : Byte) : (palWrite s i b).oamAddr = s.oamAddr := rfl
@[simp] theorem palWrite_buf (s : State) (i : BitVec 5) (b : Byte) : (palWrite s i b).buf = s.buf := rfl
@[simp] theorem palWrite_nmi (s : State) (i : BitVec 5) (b : Byte) : (palWrite s i b).nmi = s.nmi := rfl
@[simp] theorem palWrite_halted (s : State) (i : BitVec 5) (b : Byte) : (palWrite s i b).halted = s.halted := rfl
@[simp] theorem palWrite_cycles (s : State) (i : BitVec 5) (b : Byte) : (palWrite s i b).cycles = s.cycles := rfl
@[simp] theorem palWrite_scanline (s : State) (i : BitVec 5) (b : Byte) : (palWrite s i b).scanline = s.scanline := rfl
@[simp] theorem palWrite_ram (s : State) (i : BitVec 5) (b : Byte) : (palWrite s i b).ram = s.ram := rfl
@[simp] theorem palWrite_palette (s : State) (i : BitVec 5) (b : Byte) : (palWrite s i b).palette = (Memory.write s.palette i.toNat b) := rfl
@[simp] theorem palWrite_oam (s : State) (i : BitVec 5) (b : Byte) : (palWrite s i b).oam = s.oam := rfl
@[simp] theorem palWrite_out (s : State) (i : BitVec 5) (b : Byte) : (palWrite s i b).out = s.out := rfl
@[simp] theorem palWrite_faultOut (s : State) (i : BitVec 5) (b : Byte) : (palWrite s i b).faultOut = s.faultOut := rfl
@[simp] theorem palWrite_pending (s : State) (i : BitVec 5) (b : Byte) : (palWrite s i b).pending = s.pending := rfl

@[simp] theorem oamWrite_cfg (s : State) (p b : Byte) : (oamWrite s p b).cfg = s.cfg := rfl
@[simp] theorem oamWrite_mirroring (s : State) (p b : Byte) : (oamWrite s p b).mirroring = s.mirroring := rfl
@[simp] theorem oamWrite_patternLen (s : State) (p b : Byte) : (oamWrite s p b).patternLen = s.patternLen := rfl
@[simp] theorem oamWrite_pattern (s : State) (p b : Byte) : (oamWrite s p b).pattern = s.pattern := rfl
@[simp] theorem oamWrite_v (s : State) (p b : Byte) : (oamWrite s p b).v = s.v := rfl
@[simp] theorem oamWrite_wAddr (s : State) (p b : Byte) : (oamWrite s p b).wAddr = s.wAddr := rfl
@[simp] theorem oamWrite_scrollX (s : State) (p b : Byte) : (oamWrite s p b).scrollX = s.scrollX := rfl
@[simp] theorem oamWrite_scrollY (s : State) (p b : Byte) : (oamWrite s p b).scrollY = s.scrollY := rfl
@[simp] theorem oamWrite_wScroll (s : State) (p b : Byte) : (oamWrite s p b).wScroll = s.wScroll := rfl
@[simp] theorem oamWrite_ctrl (s : State) (p b : Byte) : (oamWrite s p b).ctrl = s.ctrl := rfl
@[simp] theorem oamWrite_mask (s : State) (p b : Byte) : (oamWrite s p b).mask = s.mask := rfl
@[simp] theorem oamWrite_status (s : State) (p b : Byte) : (oamWrite s p b).status = s.status := rfl
@[simp] theorem oamWrite_oamAddr (s : State) (p b : Byte) : (oamWrite s p b).oamAddr = s.oamAddr := rfl
@[simp] theorem oamWrite_buf (s : State) (p b : Byte) : (oamWrite s p b).buf = s.buf := rfl
@[simp] theorem oamWrite_nmi (s : State) (p b : Byte) : (oamWrite s p b).nmi = s.nmi := rfl
@[simp] theorem oamWrite_halted (s : State) (p b : Byte) : (oamWrite s p b).halted = s.halted := rfl
@[simp] theorem oamWrite_cycles (s : State) (p b : Byte) : (oamWrite s p b).cycles = s.cycles := rfl
@[simp] theorem oamWrite_scanline (s : State) (p b : Byte) : (oamWrite s p b).scanline = s.scanline := rfl
@[simp] theorem oamWrite_ram (s : State) (p b : Byte) : (oamWrite s p b).ram = s.ram := rfl
@[simp] theorem oamWrite_palette (s : State) (p b : Byte) : (oamWrite s p b).palette = s.palette := rfl
@[simp] theorem oamWrite_oam (s : State) (p b : Byte) : (oamWrite s p b).oam = (Memory.write s.oam p.toNat b) := rfl
@[simp] theorem oamWrite_out (s : State) (p b : Byte) : (oamWrite s p b).out = s.out := rfl
@[simp] theorem oamWrite_faultOut (s : State) (p b : Byte) : (oamWrite s p b).faultOut = s.faultOut := rfl
@[simp] theorem oamWrite_pending (s : State) (p b : Byte) : (oamWrite s p b).pending = s.pending := rfl

@[simp] theorem advanceV_cfg (s : State) : (advanceV s).cfg = s.cfg := rfl
@[simp] theorem advanceV_mirroring (s : State) : (advanceV s).mirroring = s.mirroring := rfl
@[simp] theorem advanceV_patternLen (s : State) : (advanceV s).patternLen = s.patternLen := rfl
@[simp] theorem advanceV_pattern (s : State) : (advanceV s).pattern = s.pattern := rfl
@[simp] theorem advanceV_v (s : State) : (advanceV s).v = (advanced s.cfg s.ctrl s.v) := rfl
@[simp] theorem advanceV_wAddr (s : State) : (advanceV s).wAddr = s.wAddr := rfl
@[simp] theorem advanceV_scrollX (s : State) : (advanceV s).scrollX = s.scrollX := rfl
@[simp] theorem advanceV_scrollY (s : State) : (advanceV s).scrollY = s.scrollY := rfl
@[simp] theorem advanceV_wScroll (s : State) : (advanceV s).wScroll = s.wScroll := rfl
@[simp] theorem advanceV_ctrl (s : State) : (advanceV s).ctrl = s.ctrl := rfl
@[simp] theorem advanceV_mask (s : State) : (advanceV s).mask = s.mask := rfl
@[simp] theorem advanceV_status (s : State) : (advanceV s).status = s.status := rfl
@[simp] theorem advanceV_oamAddr (s : State) : (advanceV s).oamAddr = s.oamAddr := rfl
@[simp] theorem advanceV_buf (s : State) : (advanceV s).buf = s.buf := rfl
@[simp] theorem advanceV_nmi (s : State) : (advanceV s).nmi = s.nmi := rfl
@[simp] theorem advanceV_halted (s : State) : (advanceV s).halted = s.halted := rfl
@[simp] theorem advanceV_cycles (s : State) : (advanceV s).cycles = s.cycles := rfl
@[simp] theorem advanceV_scanline (s : State) : (advanceV s).scanline = s.scanline := rfl
@[simp] theorem advanceV_ram (s : State) : (advanceV s).ram = s.ram := rfl
@[simp] theorem advanceV_palette (s : State) : (advanceV s).palette = s.palette := rfl
@[simp] theorem advanceV_oam (s : State) : (advanceV s).oam = s.oam := rfl
@[simp] theorem advanceV_out (s : State) : (advanceV s).out = s.out := rfl
@[simp] theorem advanceV_faultOut (s : State) : (advanceV s).faultOut = s.faultOut := rfl
@[simp] theorem advanceV_pending (s : State) : (advanceV s).pending = s.pending := rfl

@[simp] theorem oamStore_cfg (s : State) (b : Byte) : (oamStore s b).cfg = s.cfg := rfl
@[simp] theorem oamStore_mirroring (s : State) (b : Byte) : (oamStore s b).mirroring = s.mirroring := rfl
@[simp] theorem oamStore_patternLen (s : State) (b : Byte) : (oamStore s b).patternLen = s.patternLen := rfl
@[simp] theorem oamStore_pattern (s : State) (b : Byte) : (oamStore s b).pattern = s.pattern := rfl
@[simp] theorem oamStore_v (s : State) (b : Byte) : (oamStore s b).v = s.v := rfl
@[simp] theorem oamStore_wAddr (s : State) (b : Byte) : (oamStore s b).wAddr = s.wAddr := rfl
@[simp] theorem oamStore_scrollX (s : State) (b : Byte) : (oamStore s b).scrollX = s.scrollX := rfl
@[simp] theorem oamStore_scrollY (s : State) (b : Byte) : (oamStore s b).scrollY = s.scrollY := rfl
@[simp] theorem oamStore_wScroll (s : State) (b : Byte) : (oamStore s b).wScroll = s.wScroll := rfl
@[simp] theorem oamStore_ctrl (s : State) (b : Byte) : (oamStore s b).ctrl = s.ctrl := rfl
@[simp] theorem oamStore_mask (s : State) (b : Byte) : (oamStore s b).mask = s.mask := rfl
@[simp] theorem oamStore_status (s : State) (b : Byte) : (oamStore s b).status = s.status := rfl
@[simp] theorem oamStore_oamAddr (s : State) (b : Byte) : (oamStore s b).oamAddr = (nextSprite s.oamAddr) := rfl
@[simp] theorem oamStore_buf (s : State) (b : Byte) : (oamStore s b).buf = s.buf := rfl
@[simp] theorem oamStore_nmi (s : State) (b : Byte) : (oamStore s b).nmi = s.nmi := rfl
@[simp] theorem oamStore_halted (s : State) (b : Byte) : (oamStore s b).halted = s.halted := rfl
@[simp] theorem oamStore_cycles (s : State) (b : Byte) : (oamStore s b).cycles = s.cycles := rfl
@[simp] theorem oamStore_scanline (s : State) (b : Byte) : (oamStore s b).scanline = s.scanline := rfl
@[simp] theorem oamStore_ram (s : State) (b : Byte) : (oamStore s b).ram = s.ram := rfl
@[simp] theorem oamStore_palette (s : State) (b : Byte) : (oamStore s b).palette = s.palette := rfl
@[simp] theorem oamStore_oam (s : State) (b : Byte) : (oamStore s b).oam = (Memory.write s.oam s.oamAddr.toNat b) := rfl
@[simp] theorem oamStore_out (s : State) (b : Byte) : (oamStore s b).out = s.out := rfl
@[simp] theorem oamStore_faultOut (s : State) (b : Byte) : (oamStore s b).faultOut = s.faultOut := rfl
@[simp] theorem oamStore_pending (s : State) (b : Byte) : (oamStore s b).pending = s.pending := rfl

@[simp] theorem storeCtrl_cfg (s : State) (d : Byte) : (storeCtrl s d).cfg = s.cfg := rfl
@[simp] theorem storeCtrl_mirroring (s : State) (d : Byte) : (storeCtrl s d).mirroring = s.mirroring := rfl
@[simp] theorem storeCtrl_patternLen (s : State) (d : Byte) : (storeCtrl s d).patternLen = s.patternLen := rfl
@[simp] theorem storeCtrl_pattern (s : State) (d : Byte) : (storeCtrl s d).pattern = s.pattern := rfl
@[simp] theorem storeCtrl_v (s : State) (d : Byte) : (storeCtrl s d).v = s.v := rfl
@[simp] theorem storeCtrl_wAddr (s : State) (d : Byte) : (storeCtrl s d).wAddr = s.wAddr := rfl
@[simp] theorem storeCtrl_scrollX (s : State) (d : Byte) : (storeCtrl s d).scrollX = s.scrollX := rfl
@[simp] theorem storeCtrl_scrollY (s : State) (d : Byte) : (storeCtrl s d).scrollY = s.scrollY := rfl
@[simp] theorem storeCtrl_wScroll (s : State) (d : Byte) : (storeCtrl s d).wScroll = s.wScroll := rfl
@[simp] theorem storeCtrl_ctrl (s : State) (d : Byte) : (storeCtrl s d).ctrl = d := rfl
@[simp] theorem storeCtrl_mask (s : State) (d : Byte) : (storeCtrl s d).mask = s.mask := rfl
@[simp] theorem storeCtrl_status (s : State) (d : Byte) : (storeCtrl s d).status = s.status := rfl
@[simp] theorem storeCtrl_oamAddr (s : State) (d : Byte) : (storeCtrl s d).oamAddr = s.oamAddr := rfl
@[simp] theorem storeCtrl_buf (s : State) (d : Byte) : (storeCtrl s d).buf = s.buf := rfl
@[simp] theorem storeCtrl_nmi (s : State) (d : Byte) : (storeCtrl s d).nmi = (s.nmi || retriggers s.cfg s.ctrl d s.status) := rfl
@[simp] theorem storeCtrl_halted (s : State) (d : Byte) : (storeCtrl s d).halted = s.halted := rfl
@[simp] theorem storeCtrl_cycles (s : State) (d : Byte) : (storeCtrl s d).cycles = s.cycles := rfl
@[simp] theorem storeCtrl_scanline (s : State) (d : Byte) : (storeCtrl s d).scanline = s.scanline := rfl
@[simp] theorem storeCtrl_ram (s : State) (d : Byte) : (storeCtrl s d).ram = s.ram := rfl
@[simp] theorem storeCtrl_palette (s : State) (d : Byte) : (storeCtrl s d).palette = s.palette := rfl
@[simp] theorem storeCtrl_oam (s : State) (d : Byte) : (storeCtrl s d).oam = s.oam := rfl
@[simp] theorem storeCtrl_out (s : State) (d : Byte) : (storeCtrl s d).out = s.out := rfl
@[simp] theorem storeCtrl_faultOut (s : State) (d : Byte) : (storeCtrl s d).faultOut = s.faultOut := rfl
@[simp] theorem storeCtrl_pending (s : State) (d : Byte) : (storeCtrl s d).pending = s.pending := rfl

@[simp] theorem resync_cfg (s : State) : (resync s).cfg = s.cfg := rfl
@[simp] theorem resync_mirroring (s : State) : (resync s).mirroring = s.mirroring := rfl
@[simp] theorem resync_patternLen (s : State) : (resync s).patternLen = s.patternLen := rfl
@[simp] theorem resync_pattern (s : State) : (resync s).pattern = s.pattern := rfl
@[simp] theorem resync_v (s : State) : (resync s).v = s.v := rfl
@[simp] theorem resync_wAddr (s : State) : (resync s).wAddr = true := rfl
@[simp] theorem resync_scrollX (s : State) : (resync s).scrollX = s.scrollX := rfl
@[simp] theorem resync_scrollY (s : State) : (resync s).scrollY = s.scrollY := rfl
@[simp] theorem resync_wScroll (s : State) : (resync s).wScroll = true := rfl
@[simp] theorem resync_ctrl (s : State) : (resync s).ctrl = s.ctrl := rfl
@[simp] theorem resync_mask (s : State) : (resync s).mask = s.mask := rfl
@[simp] theorem resync_status (s : State) : (resync s).status = (statusAfterRead s.cfg s.status) := rfl
@[simp] theorem resync_oamAddr (s : State) : (resync s).oamAddr = s.oamAddr := rfl
@[simp] theorem resync_buf (s : State) : (resync s).buf = s.buf := rfl
@[simp] theorem resync_nmi (s : State) : (resync s).nmi = s.nmi := rfl
@[simp] theorem resync_halted (s : State) : (resync s).halted = s.halted := rfl
@[simp] theorem resync_cycles (s : State) : (resync s).cycles = s.cycles := rfl
@[simp] theorem resync_scanline (s : State) : (resync s).scanline = s.scanline := rfl
@[simp] theorem resync_ram (s : State) : (resync s).ram = s.ram := rfl
@[simp] theorem resync_palette (s : State) : (resync s).palette = s.palette := rfl
@[simp] theorem resync_oam (s : State) : (resync s).oam = s.oam := rfl
@[simp] theorem resync_out (s : State) : (resync s).out = s.out := rfl
@[simp] theorem resync_faultOut (s : State) : (resync s).faultOut = s.faultOut := rfl
@[simp] theorem resync_pending (s : State) : (resync s).pending = s.pending := rfl

@[simp] theorem enterVblank_cfg (s : State) : (enterVblank s).cfg = s.cfg := rfl
@[simp] theorem enterVblank_mirroring (s : State) : (enterVblank s).mirroring = s.mirroring := rfl
@[simp] theorem enterVblank_patternLen (s : State) : (enterVblank s).patternLen = s.patternLen := rfl
@[simp] theorem enterVblank_pattern (s : State) : (enterVblank s).pattern = s.pattern := rfl
@[simp] theorem enterVblank_v (s : State) : (enterVblank s).v = s.v := rfl
@[simp] theorem enterVblank_wAddr (s : State) : (enterVblank s).wAddr = s.wAddr := rfl
@[simp] theorem enterVblank_scrollX (s : State) : (enterVblank s).scrollX = s.scrollX := rfl
@[simp] theorem enterVblank_scrollY (s : State) : (enterVblank s).scrollY = s.scrollY := rfl
@[simp] theorem enterVblank_wScroll (s : State) : (enterVblank s).wScroll = s.wScroll := rfl
@[simp] theorem enterVblank_ctrl (s : State) : (enterVblank s).ctrl = s.ctrl := rfl
@[simp] theorem enterVblank_mask (s : State) : (enterVblank s).mask = s.mask := rfl
@[simp] theorem enterVblank_status (s : State) : (enterVblank s).status = (statusAtVblank s.cfg s.status) := rfl
@[simp] theorem enterVblank_oamAddr (s : State) : (enterVblank s).oamAddr = s.oamAddr := rfl
@[simp] theorem enterVblank_buf (s : State) : (enterVblank s).buf = s.buf := rfl
@[simp] theorem enterVblank_nmi (s : State) : (enterVblank s).nmi = (s.nmi || nmiEnabled s.cfg s.ctrl) := rfl
@[simp] theorem enterVblank_halted (s : State) : (enterVblank s).halted = s.halted := rfl
@[simp] theorem enterVblank_cycles (s : State) : (enterVblank s).cycles = s.cycles := rfl
@[simp] theorem enterVblank_scanline (s : State) : (enterVblank s).scanline = 241#9 := rfl
@[simp] theorem enterVblank_ram (s : State) : (enterVblank s).ram = s.ram := rfl
@[simp] theorem enterVblank_palette (s : State) : (enterVblank s).palette = s.palette := rfl
@[simp] theorem enterVblank_oam (s : State) : (enterVblank s).oam = s.oam := rfl
@[simp] theorem enterVblank_out (s : State) : (enterVblank s).out = s.out := rfl
@[simp] theorem enterVblank_faultOut (s : State) : (enterVblank s).faultOut = s.faultOut := rfl
@[simp] theorem enterVblank_pending (s : State) : (enterVblank s).pending = s.pending := rfl

@[simp] theorem wrapFrame_cfg (s : State) : (wrapFrame s).cfg = s.cfg := rfl
@[simp] theorem wrapFrame_mirroring (s : State) : (wrapFrame s).mirroring = s.mirroring := rfl
@[simp] theorem wrapFrame_patternLen (s : State) : (wrapFrame s).patternLen = s.patternLen := rfl
@[simp] theorem wrapFrame_pattern (s : State) : (wrapFrame s).pattern = s.pattern := rfl
@[simp] theorem wrapFrame_v (s : State) : (wrapFrame s).v = s.v := rfl
@[simp] theorem wrapFrame_wAddr (s : State) : (wrapFrame s).wAddr = s.wAddr := rfl
@[simp] theorem wrapFrame_scrollX (s : State) : (wrapFrame s).scrollX = s.scrollX := rfl
@[simp] theorem wrapFrame_scrollY (s : State) : (wrapFrame s).scrollY = s.scrollY := rfl
@[simp] theorem wrapFrame_wScroll (s : State) : (wrapFrame s).wScroll = s.wScroll := rfl
@[simp] theorem wrapFrame_ctrl (s : State) : (wrapFrame s).ctrl = s.ctrl := rfl
@[simp] theorem wrapFrame_mask (s : State) : (wrapFrame s).mask = s.mask := rfl
@[simp] theorem wrapFrame_status (s : State) : (wrapFrame s).status = (statusAtWrap s.cfg s.status) := rfl
@[simp] theorem wrapFrame_oamAddr (s : State) : (wrapFrame s).oamAddr = s.oamAddr := rfl
@[simp] theorem wrapFrame_buf (s : State) : (wrapFrame s).buf = s.buf := rfl
@[simp] theorem wrapFrame_nmi (s : State) : (wrapFrame s).nmi = false := rfl
@[simp] theorem wrapFrame_halted (s : State) : (wrapFrame s).halted = s.halted := rfl
@[simp] theorem wrapFrame_cycles (s : State) : (wrapFrame s).cycles = s.cycles := rfl
@[simp] theorem wrapFrame_scanline (s : State) : (wrapFrame s).scanline = 0#9 := rfl
@[simp] theorem wrapFrame_ram (s : State) : (wrapFrame s).ram = s.ram := rfl
@[simp] theorem wrapFrame_palette (s : State) : (wrapFrame s).palette = s.palette := rfl
@[simp] theorem wrapFrame_oam (s : State) : (wrapFrame s).oam = s.oam := rfl
@[simp] theorem wrapFrame_out (s : State) : (wrapFrame s).out = s.out := rfl
@[simp] theorem wrapFrame_faultOut (s : State) : (wrapFrame s).faultOut = s.faultOut := rfl
@[simp] theorem wrapFrame_pending (s : State) : (wrapFrame s).pending = s.pending := rfl

@[simp] theorem storeScroll_cfg (s : State) (d : Byte) : (storeScroll s d).cfg = s.cfg := by
  unfold storeScroll; split <;> rfl
@[simp] theorem storeScroll_mirroring (s : State) (d : Byte) : (storeScroll s d).mirroring = s.mirroring := by
  unfold storeScroll; split <;> rfl
@[simp] theorem storeScroll_patternLen (s : State) (d : Byte) : (storeScroll s d).patternLen = s.patternLen := by
  unfold storeScroll; split <;> rfl
@[simp] theorem storeScroll_pattern (s : State) (d : Byte) : (storeScroll s d).pattern = s.pattern := by
  unfold storeScroll; split <;> rfl
@[simp] theorem storeScroll_v (s : State) (d : Byte) : (storeScroll s d).v = s.v := by
  unfold storeScroll; split <;> rfl
@[simp] theorem storeScroll_wAddr (s : State) (d : Byte) : (storeScroll s d).wAddr = s.wAddr := by
  unfold storeScroll; split <;> rfl
@[simp] theorem storeScroll_scrollX (s : State) (d : Byte) : (storeScroll s d).scrollX = (if s.wScroll then d else s.scrollX) := by
  unfold storeScroll; cases h : s.wScroll <;> simp
@[simp] theorem storeScroll_scrollY (s : State) (d : Byte) : (storeScroll s d).scrollY = (if s.wScroll then s.scrollY else d) := by
  unfold storeScroll; cases h : s.wScroll <;> simp
@[simp] theorem storeScroll_wScroll (s : State) (d : Byte) : (storeScroll s d).wScroll = !s.wScroll := by
  unfold storeScroll; cases h : s.wScroll <;> simp
@[simp] theorem storeScroll_ctrl (s : State) (d : Byte) : (storeScroll s d).ctrl = s.ctrl := by
  unfold storeScroll; split <;> rfl
@[simp] theorem storeScroll_mask (s : State) (d : Byte) : (storeScroll s d).mask = s.mask := by
  unfold storeScroll; split <;> rfl
@[simp] theorem storeScroll_status (s : State) (d : Byte) : (storeScroll s d).status = s.status := by
  unfold storeScroll; split <;> rfl
@[simp] theorem storeScroll_oamAddr (s : State) (d : Byte) : (storeScroll s d).oamAddr = s.oamAddr := by
  unfold storeScroll; split <;> rfl
@[simp] theorem storeScroll_buf (s : State) (d : Byte) : (storeScroll s d).buf = s.buf := by
  unfold storeScroll; split <;> rfl
@[simp] theorem storeScroll_nmi (s : State) (d : Byte) : (storeScroll s d).nmi = s.nmi := by
  unfold storeScroll; split <;> rfl
@[simp] theorem storeScroll_halted (s : State) (d : Byte) : (storeScroll s d).halted = s.halted := by
  unfold storeScroll; split <;> rfl
@[simp] theorem storeScroll_cycles (s : State) (d : Byte) : (storeScroll s d).cycles = s.cycles := by
  unfold storeScroll; split <;> rfl
@[simp] theorem storeScroll_scanline (s : State) (d : Byte) : (storeScroll s d).scanline = s.scanline := by
  unfold storeScroll; split <;> rfl
@[simp] theorem storeScroll_ram (s : State) (d : Byte) : (storeScroll s d).ram = s.ram := by
  unfold storeScroll; split <;> rfl
@[simp] theorem storeScroll_palette (s : State) (d : Byte) : (storeScroll s d).palette = s.palette := by
  unfold storeScroll; split <;> rfl
@[simp] theorem storeScroll_oam (s : State) (d : Byte) : (storeScroll s d).oam = s.oam := by
  unfold storeScroll; split <;> rfl
@[simp] theorem storeScroll_out (s : State) (d : Byte) : (storeScroll s d).out = s.out := by
  unfold storeScroll; split <;> rfl
@[simp] theorem storeScroll_faultOut (s : State) (d : Byte) : (storeScroll s d).faultOut = s.faultOut := by
  unfold storeScroll; split <;> rfl
@[simp] theorem storeScroll_pending (s : State) (d : Byte) : (storeScroll s d).pending = s.pending := by
  unfold storeScroll; split <;> rfl

@[simp] theorem storeAddr_cfg (s : State) (d : Byte) : (storeAddr s d).cfg = s.cfg := by
  unfold storeAddr; split <;> rfl
@[simp] theorem storeAddr_mirroring (s : State) (d : Byte) : (storeAddr s d).mirroring = s.mirroring := by
  unfold storeAddr; split <;> rfl
@[simp] theorem storeAddr_patternLen (s : State) (d : Byte) : (storeAddr s d).patternLen = s.patternLen := by
  unfold storeAddr; split <;> rfl
@[simp] theorem storeAddr_pattern (s : State) (d : Byte) : (storeAddr s d).pattern = s.pattern := by
  unfold storeAddr; split <;> rfl
@[simp] theorem storeAddr_v (s : State) (d : Byte) : (storeAddr s d).v = (if s.wAddr then withHighByte s.v d else withLowByte s.v d) := by
  unfold storeAddr; cases h : s.wAddr <;> simp
@[simp] theorem storeAddr_wAddr (s : State) (d : Byte) : (storeAddr s d).wAddr = !s.wAddr := by
  unfold storeAddr; cases h : s.wAddr <;> simp
@[simp] theorem storeAddr_scrollX (s : State) (d : Byte) : (storeAddr s d).scrollX = s.scrollX := by
  unfold storeAddr; split <;> rfl
@[simp] theorem storeAddr_scrollY (s : State) (d : Byte) : (storeAddr s d).scrollY = s.scrollY := by
  unfold storeAddr; split <;> rfl
@[simp] theorem storeAddr_wScroll (s : State) (d : Byte) : (storeAddr s d).wScroll = s.wScroll := by
  unfold storeAddr; split <;> rfl
@[simp] theorem storeAddr_ctrl (s : State) (d : Byte) : (storeAddr s d).ctrl = s.ctrl := by
  unfold storeAddr; split <;> rfl
@[simp] theorem storeAddr_mask (s : State) (d : Byte) : (storeAddr s d).mask = s.mask := by
  unfold storeAddr; split <;> rfl
@[simp] theorem storeAddr_status (s : State) (d : Byte) : (storeAddr s d).status = s.status := by
  unfold storeAddr; split <;> rfl
@[simp] theorem storeAddr_oamAddr (s : State) (d : Byte) : (storeAddr s d).oamAddr = s.oamAddr := by
  unfold storeAddr; split <;> rfl
@[simp] theorem storeAddr_buf (s : State) (d : Byte) : (storeAddr s d).buf = s.buf := by
  unfold storeAddr; split <;> rfl
@[simp] theorem storeAddr_nmi (s : State) (d : Byte) : (storeAddr s d).nmi = s.nmi := by
  unfold storeAddr; split <;> rfl
@[simp] theorem storeAddr_halted (s : State) (d : Byte) : (storeAddr s d).halted = s.halted := by
  unfold storeAddr; split <;> rfl
@[simp] theorem storeAddr_cycles (s : State) (d : Byte) : (storeAddr s d).cycles = s.cycles := by
  unfold storeAddr; split <;> rfl
@[simp] theorem storeAddr_scanline (s : State) (d : Byte) : (storeAddr s d).scanline = s.scanline := by
  unfold storeAddr; split <;> rfl
@[simp] theorem storeAddr_ram (s : State) (d : Byte) : (storeAddr s d).ram = s.ram := by
  unfold storeAddr; split <;> rfl
@[simp] theorem storeAddr_palette (s : State) (d : Byte) : (storeAddr s d).palette = s.palette := by
  unfold storeAddr; split <;> rfl
@[simp] theorem storeAddr_oam (s : State) (d : Byte) : (storeAddr s d).oam = s.oam := by
  unfold storeAddr; split <;> rfl
@[simp] theorem storeAddr_out (s : State) (d : Byte) : (storeAddr s d).out = s.out := by
  unfold storeAddr; split <;> rfl
@[simp] theorem storeAddr_faultOut (s : State) (d : Byte) : (storeAddr s d).faultOut = s.faultOut := by
  unfold storeAddr; split <;> rfl
@[simp] theorem storeAddr_pending (s : State) (d : Byte) : (storeAddr s d).pending = s.pending := by
  unfold storeAddr; split <;> rfl

@[simp] theorem oamStoreAll_cfg (bs : List Byte) : ∀ s : State, (oamStoreAll s bs).cfg = s.cfg := by
  induction bs with
  | nil => intro s; rfl
  | cons b bs ih => intro s; simp [oamStoreAll, ih]
@[simp] theorem oamStoreAll_mirroring (bs : List Byte) : ∀ s : State, (oamStoreAll s bs).mirroring = s.mirroring := by
  induction bs with
  | nil => intro s; rfl
  | cons b bs ih => intro s; simp [oamStoreAll, ih]
@[simp] theorem oamStoreAll_patternLen (bs : List Byte) : ∀ s : State, (oamStoreAll s bs).patternLen = s.patternLen := by
  induction bs with
  | nil => intro s; rfl
  | cons b bs ih => intro s; simp [oamStoreAll, ih]
@[simp] theorem oamStoreAll_pattern (bs : List Byte) : ∀ s : State, (oamStoreAll s bs).pattern = s.pattern := by
  induction bs with
  | nil => intro s; rfl
  | cons b bs ih => intro s; simp [oamStoreAll, ih]
@[simp] theorem oamStoreAll_v (bs : List Byte) : ∀ s : State, (oamStoreAll s bs).v = s.v := by
  induction bs with
  | nil => intro s; rfl
  | cons b bs ih => intro s; simp [oamStoreAll, ih]
@[simp] theorem oamStoreAll_wAddr (bs : List Byte) : ∀ s : State, (oamStoreAll s bs).wAddr = s.wAddr := by
  induction bs with
  | nil => intro s; rfl
  | cons b bs ih => intro s; simp [oamStoreAll, ih]
@[simp] theorem oamStoreAll_scrollX (bs : List Byte) : ∀ s : State, (oamStoreAll s bs).scrollX = s.scrollX := by
  induction bs with
  | nil => intro s; rfl
  | cons b bs ih => intro s; simp [oamStoreAll, ih]
@[simp] theorem oamStoreAll_scrollY (bs : List Byte) : ∀ s : State, (oamStoreAll s bs).scrollY = s.scrollY := by
  induction bs with
  | nil => intro s; rfl
  | cons b bs ih => intro s; simp [oamStoreAll, ih]
@[simp] theorem oamStoreAll_wScroll (bs : List Byte) : ∀ s : State, (oamStoreAll s bs).wScroll = s.wScroll := by
  induction bs with
  | nil => intro s; rfl
  | cons b bs ih => intro s; simp [oamStoreAll, ih]
@[simp] theorem oamStoreAll_ctrl (bs : List Byte) : ∀ s : State, (oamStoreAll s bs).ctrl = s.ctrl := by
  induction bs with
  | nil => intro s; rfl
  | cons b bs ih => intro s; simp [oamStoreAll, ih]
@[simp] theorem oamStoreAll_mask (bs : List Byte) : ∀ s : State, (oamStoreAll s bs).mask = s.mask := by
  induction bs with
  | nil => intro s; rfl
  | cons b bs ih => intro s; simp [oamStoreAll, ih]
@[simp] theorem oamStoreAll_status (bs : List Byte) : ∀ s : State, (oamStoreAll s bs).status = s.status := by
  induction bs with
  | nil => intro s; rfl
  | cons b bs ih => intro s; simp [oamStoreAll, ih]
@[simp] theorem oamStoreAll_buf (bs : List Byte) : ∀ s : State, (oamStoreAll s bs).buf = s.buf := by
  induction bs with
  | nil => intro s; rfl
  | cons b bs ih => intro s; simp [oamStoreAll, ih]
@[simp] theorem oamStoreAll_nmi (bs : List Byte) : ∀ s : State, (oamStoreAll s bs).nmi = s.nmi := by
  induction bs with
  | nil => intro s; rfl
  | cons b bs ih => intro s; simp [oamStoreAll, ih]
@[simp] theorem oamStoreAll_halted (bs : List Byte) : ∀ s : State, (oamStoreAll s bs).halted = s.halted := by
  induction bs with
  | nil => intro s; rfl
  | cons b bs ih => intro s; simp [oamStoreAll, ih]
@[simp] theorem oamStoreAll_cycles (bs : List Byte) : ∀ s : State, (oamStoreAll s bs).cycles = s.cycles := by
  induction bs with
  | nil => intro s; rfl
  | cons b bs ih => intro s; simp [oamStoreAll, ih]
@[simp] theorem oamStoreAll_scanline (bs : List Byte) : ∀ s : State, (oamStoreAll s bs).scanline = s.scanline := by
  induction bs with
  | nil => intro s; rfl
  | cons b bs ih => intro s; simp [oamStoreAll, ih]
@[simp] theorem oamStoreAll_ram (bs : List Byte) : ∀ s : State, (oamStoreAll s bs).ram = s.ram := by
  induction bs with
  | nil => intro s; rfl
  | cons b bs ih => intro s; simp [oamStoreAll, ih]
@[simp] theorem oamStoreAll_palette (bs : List Byte) : ∀ s : State, (oamStoreAll s bs).palette = s.palette := by
  induction bs with
  | nil => intro s; rfl
  | cons b bs ih => intro s; simp [oamStoreAll, ih]
@[simp] theorem oamStoreAll_out (bs : List Byte) : ∀ s : State, (oamStoreAll s bs).out = s.out := by
  induction bs with
  | nil => intro s; rfl
  | cons b bs ih => intro s; simp [oamStoreAll, ih]
@[simp] theorem oamStoreAll_faultOut (bs : List Byte) : ∀ s : State, (oamStoreAll s bs).faultOut = s.faultOut := by
  induction bs with
  | nil => intro s; rfl
  | cons b bs ih => intro s; simp [oamStoreAll, ih]
@[simp] theorem oamStoreAll_pending (bs : List Byte) : ∀ s : State, (oamStoreAll s bs).pending = s.pending := by
  induction bs with
  | nil => intro s; rfl
  | cons b bs ih => intro s; simp [oamStoreAll, ih]

end Sys2Proof.Machine
end

