-- ==== Sys2Proof/Laws/Ops.lean ====
section
/-! SUPPORT. One lemma per shared operation and per meaning that says everything it can answer; later proofs cite these
instead of unfolding. -/

namespace Sys2Proof.Machine

open Sys2Proof

theorem ifRunning_next {s t : State} {k : Host.Outcome State Fault Refusal} :
    ifRunning s k = .next t ↔ s.halted = false ∧ k = .next t := by
  unfold ifRunning
  cases s.halted <;> simp

theorem ifRunning_fault {s : State} {k : Host.Outcome State Fault Refusal} {f : Fault} :
    ifRunning s k = .fault f ↔ s.halted = false ∧ k = .fault f := by
  unfold ifRunning
  cases s.halted <;> simp

theorem ifRunning_live {s : State} {k : Host.Outcome State Fault Refusal} (h : s.halted = false) :
    ifRunning s k = k := by simp [ifRunning, h]

theorem ifRunning_halted {s : State} {k : Host.Outcome State Fault Refusal} (h : s.halted = true) :
    ifRunning s k = .refused .haltedBlock := by simp [ifRunning, h]

theorem complete_next {s t : State} {r : Response} : complete s r = .next t ↔ t = { s with out := r } := by
  unfold complete
  constructor
  · intro h; cases h; rfl
  · intro h; rw [h]

@[simp] theorem complete_ne_fault {s : State} {r : Response} {f : Fault} : complete s r ≠ .fault f := by
  simp [complete]

@[simp] theorem raiseFault_ne_next {f : Fault} {t : State} : raiseFault f ≠ .next t := by simp [raiseFault]

/-- Everything a bus write can do when it succeeds. -/
theorem busWrite_ok {s t : State} {a : BusAddr} {b : Byte} (h : busWrite s a b = .ok t) :
    (a.toNat ≤ 0x1FFF ∧ t = s) ∨
    (0x2000 ≤ a.toNat ∧ a.toNat ≤ 0x2FFF ∧ ∃ o, mirror s.mirroring a = some o ∧ t = ramWrite s o b) ∨
    (0x3F00 ≤ a.toNat ∧ a.toNat ≤ 0x3F1F ∧ ∃ i, palidx a = some i ∧ t = palWrite s i b) := by
  unfold busWrite at h
  rcases busTarget_cases s.mirroring a with ⟨h1, e⟩ | ⟨h1, h2, o, ho, e⟩ | ⟨h1, h2, e⟩ | ⟨h1, h2, i, hi, e⟩ | ⟨h1, e⟩
  all_goals simp only [e] at h
  · cases h; exact .inl ⟨h1, rfl⟩
  · cases h; exact .inr (.inl ⟨h1, h2, o, ho, rfl⟩)
  · cases h
  · cases h; exact .inr (.inr ⟨h1, h2, i, hi, rfl⟩)
  · cases h

/-- Everything a bus write can raise. -/
theorem busWrite_error {s : State} {a : BusAddr} {b : Byte} {f : Fault} (h : busWrite s a b = .error f) :
    (0x3000 ≤ a.toNat ∧ a.toNat ≤ 0x3EFF ∧ f = .mirrorWindowAccess a) ∨
    (0x3F20 ≤ a.toNat ∧ f = .paletteIndexRange a) := by
  unfold busWrite at h
  rcases busTarget_cases s.mirroring a with ⟨h1, e⟩ | ⟨h1, h2, o, ho, e⟩ | ⟨h1, h2, e⟩ | ⟨h1, h2, i, hi, e⟩ | ⟨h1, e⟩
  all_goals simp only [e] at h
  · cases h
  · cases h
  · cases h; exact .inl ⟨h1, h2, rfl⟩
  · cases h
  · cases h; exact .inr ⟨h1, rfl⟩

/-- Everything a bus read can return. -/
theorem busRead_ok {s : State} {a : BusAddr} {b : Byte} (h : busRead s a = .ok b) :
    (a.toNat ≤ 0x1FFF ∧ a.toNat < s.patternLen ∧ b = Memory.read s.pattern a.toNat) ∨
    (0x2000 ≤ a.toNat ∧ a.toNat ≤ 0x2FFF ∧ ∃ o, mirror s.mirroring a = some o ∧ b = ramRead s o) ∨
    (0x3F00 ≤ a.toNat ∧ a.toNat ≤ 0x3F1F ∧ ∃ i, palidx a = some i ∧ b = palRead s i) := by
  unfold busRead at h
  rcases busTarget_cases s.mirroring a with ⟨h1, e⟩ | ⟨h1, h2, o, ho, e⟩ | ⟨h1, h2, e⟩ | ⟨h1, h2, i, hi, e⟩ | ⟨h1, e⟩
  all_goals simp only [e] at h
  · unfold patRead at h
    by_cases hp : a.toNat < s.patternLen
    · simp only [hp, if_true] at h; cases h; exact .inl ⟨h1, hp, rfl⟩
    · simp only [hp, if_false] at h; cases h
  · cases h; exact .inr (.inl ⟨h1, h2, o, ho, rfl⟩)
  · cases h
  · cases h; exact .inr (.inr ⟨h1, h2, i, hi, rfl⟩)
  · cases h

/-- Everything a bus read can raise. -/
theorem busRead_error {s : State} {a : BusAddr} {f : Fault} (h : busRead s a = .error f) :
    (a.toNat ≤ 0x1FFF ∧ s.patternLen ≤ a.toNat ∧ f = .patternIndexRange a) ∨
    (0x3000 ≤ a.toNat ∧ a.toNat ≤ 0x3EFF ∧ f = .mirrorWindowAccess a) ∨
    (0x3F20 ≤ a.toNat ∧ f = .paletteIndexRange a) := by
  unfold busRead at h
  rcases busTarget_cases s.mirroring a with ⟨h1, e⟩ | ⟨h1, h2, o, ho, e⟩ | ⟨h1, h2, e⟩ | ⟨h1, h2, i, hi, e⟩ | ⟨h1, e⟩
  all_goals simp only [e] at h
  · unfold patRead at h
    by_cases hp : a.toNat < s.patternLen
    · simp only [hp, if_true] at h; cases h
    · simp only [hp, if_false] at h; cases h; exact .inl ⟨h1, by omega, rfl⟩
  · cases h
  · cases h; exact .inr (.inl ⟨h1, h2, rfl⟩)
  · cases h
  · cases h; exact .inr (.inr ⟨h1, rfl⟩)

theorem execWriteCtrl_next {d : Byte} {s t : State} :
    execWriteCtrl d s = .next t ↔ s.halted = false ∧ t = { storeCtrl s d with out := Response.none } := by
  simp only [execWriteCtrl, ifRunning_next, complete_next]

theorem execWriteMask_next {d : Byte} {s t : State} :
    execWriteMask d s = .next t ↔ s.halted = false ∧ t = { s with mask := d, out := Response.none } := by
  simp only [execWriteMask, ifRunning_next, complete_next]

theorem execReadStatus_next {s t : State} :
    execReadStatus s = .next t ↔ s.halted = false ∧ t = { resync s with out := Response.byte s.status } := by
  simp only [execReadStatus, ifRunning_next, complete_next]

theorem execWriteScroll_next {d : Byte} {s t : State} :
    execWriteScroll d s = .next t ↔ s.halted = false ∧ t = { storeScroll s d with out := Response.none } := by
  simp only [execWriteScroll, ifRunning_next, complete_next]

theorem execWriteAddr_next {d : Byte} {s t : State} :
    execWriteAddr d s = .next t ↔ s.halted = false ∧ t = { storeAddr s d with out := Response.none } := by
  simp only [execWriteAddr, ifRunning_next, complete_next]

theorem execWriteOamAddr_next {d : Byte} {s t : State} :
    execWriteOamAddr d s = .next t ↔ s.halted = false ∧ t = { s with oamAddr := d, out := Response.none } := by
  simp only [execWriteOamAddr, ifRunning_next, complete_next]

theorem execWriteOamData_next {d : Byte} {s t : State} :
    execWriteOamData d s = .next t ↔ s.halted = false ∧ t = { oamStore s d with out := Response.none } := by
  simp only [execWriteOamData, ifRunning_next, complete_next]

theorem execReadOamData_next {s t : State} : execReadOamData s = .next t ↔
    s.halted = false ∧ t = { s with out := Response.byte (oamRead s s.oamAddr) } := by
  simp only [execReadOamData, ifRunning_next, complete_next]

theorem execNmiAck_next {s t : State} :
    execNmiAck s = .next t ↔ s.halted = false ∧ t = { s with nmi := false, out := Response.none } := by
  simp only [execNmiAck, ifRunning_next, complete_next]

theorem execOamDma_next {bs : List Byte} {s t : State} : execOamDma bs s = .next t ↔
    s.halted = false ∧ bs.length = oamSize ∧ t = { oamStoreAll s bs with out := Response.none } := by
  simp only [execOamDma, ifRunning_next]
  split
  · rename_i h; simp [h, complete_next]
  · rename_i h; simp [h]

theorem execWriteData_next {d : Byte} {s t : State} : execWriteData d s = .next t ↔
    s.halted = false ∧ ∃ u, busWrite s s.v d = .ok u ∧ t = { advanceV u with out := writeResponse s d } := by
  simp only [execWriteData, ifRunning_next]
  cases busWrite s s.v d <;> simp [complete_next]

theorem execWriteData_fault {d : Byte} {s : State} {f : Fault} : execWriteData d s = .fault f ↔
    s.halted = false ∧ busWrite s s.v d = .error f := by
  simp only [execWriteData, ifRunning_fault]
  cases busWrite s s.v d <;> simp [raiseFault]

theorem execReadData_next {s t : State} : execReadData s = .next t ↔
    s.halted = false ∧ ∃ b, busRead s s.v = .ok b ∧
      t = if bufferedRead s.v then { advanceV s with buf := b, out := Response.byte s.buf }
        else { advanceV s with out := Response.byte b } := by
  simp only [execReadData, ifRunning_next]
  cases busRead s s.v
  · simp
  · by_cases h : bufferedRead s.v = true <;> simp [complete_next, h]

theorem execReadData_fault {s : State} {f : Fault} : execReadData s = .fault f ↔
    s.halted = false ∧ busRead s s.v = .error f := by
  simp only [execReadData, ifRunning_fault]
  cases busRead s s.v
  · simp [raiseFault]
  · by_cases h : bufferedRead s.v = true <;> simp [h]

/-- Everything a TICK can do: nothing rolls, or one scanline rolls and meets one of three boundaries. -/
theorem execTick_next {e : Byte} {s t : State} (h : execTick e s = .next t) : s.halted = false ∧
    ((s.cycles.toNat + e.toNat < 341 ∧
        t = { s with cycles := BitVec.ofNat 9 (s.cycles.toNat + e.toNat), out := Response.frame false }) ∨
     (341 ≤ s.cycles.toNat + e.toNat ∧ s.scanline.toNat = 240 ∧
        t = { enterVblank s with
          cycles := BitVec.ofNat 9 (s.cycles.toNat + e.toNat - 341), out := Response.frame false }) ∨
     (341 ≤ s.cycles.toNat + e.toNat ∧ 261 ≤ s.scanline.toNat ∧
        t = { wrapFrame s with
          cycles := BitVec.ofNat 9 (s.cycles.toNat + e.toNat - 341), out := Response.frame true }) ∨
     (341 ≤ s.cycles.toNat + e.toNat ∧ s.scanline.toNat ≠ 240 ∧ s.scanline.toNat < 261 ∧
        t = { s with
          cycles := BitVec.ofNat 9 (s.cycles.toNat + e.toNat - 341)
          scanline := BitVec.ofNat 9 (s.scanline.toNat + 1)
          out := Response.frame false })) := by
  simp only [execTick, rollScanline, ifRunning_next, cyclesPerScanline, scanlinesPerFrame, vblankScanline] at h
  obtain ⟨hl, h⟩ := h
  refine ⟨hl, ?_⟩
  split at h
  · rw [complete_next] at h
    exact .inl ⟨by assumption, h⟩
  · split at h
    · rw [complete_next] at h
      exact .inr (.inl ⟨by omega, by omega, by rw [h]; simp only [enterVblank]⟩)
    · split at h
      · rw [complete_next] at h
        exact .inr (.inr (.inl ⟨by omega, by omega, by rw [h]; simp only [wrapFrame]⟩))
      · rw [complete_next] at h
        exact .inr (.inr (.inr ⟨by omega, by omega, by omega, h⟩))

/-- A TICK on a block that is not halted completes, whatever its operand. -/
theorem execTick_completes (e : Byte) {s : State} (h : s.halted = false) : ∃ t, execTick e s = .next t := by
  simp only [execTick, ifRunning_live h, rollScanline, complete]
  split
  · exact ⟨_, rfl⟩
  · split
    · exact ⟨_, rfl⟩
    · split <;> exact ⟨_, rfl⟩

theorem oamStoreAll_cons (s : State) (b : Byte) (bs : List Byte) :
    oamStoreAll s (b :: bs) = oamStoreAll (oamStore s b) bs := rfl

theorem oamStoreAll_oamAddr (bs : List Byte) : ∀ s : State,
    (oamStoreAll s bs).oamAddr.toNat = (s.oamAddr.toNat + bs.length) % 256 := by
  induction bs with
  | nil => intro s; have := s.oamAddr.isLt; simp only [oamStoreAll, List.length_nil]; omega
  | cons b bs ih =>
    intro s
    rw [oamStoreAll_cons, ih, oamStore_oamAddr, nextSprite_toNat, List.length_cons]
    omega

/-- Everything one step can do when it answers a next state. -/
theorem step_next {s t : State} (h : step s = .next t) :
    (s.pending = [] ∧ t = s) ∨
    (∃ pattern m rest, s.pending = .resetStrobe pattern m :: rest ∧ t = construct s.cfg pattern m rest) ∨
    (∃ tr rest i, s.pending = .operation tr :: rest ∧ decode tr = .ok i ∧
      exec i { s with pending := rest } = .next t) := by
  unfold step at h
  split at h
  · rename_i hp; cases h; exact .inl ⟨hp, rfl⟩
  · rename_i pattern m rest hp; cases h; exact .inr (.inl ⟨pattern, m, rest, hp, rfl⟩)
  · rename_i tr rest hp
    split at h
    · rename_i i hi; exact .inr (.inr ⟨tr, rest, i, hp, hi, h⟩)
    · cases h

theorem runOps_cons_next {i : Instr} {is : List Instr} {s t : State} :
    runOps (i :: is) s = .next t ↔ ∃ u, exec i s = .next u ∧ runOps is u = .next t := by
  simp only [runOps]
  cases exec i s <;> simp

theorem runOps_append_next {is js : List Instr} {s t : State} :
    runOps (is ++ js) s = .next t ↔ ∃ u, runOps is s = .next u ∧ runOps js u = .next t := by
  induction is generalizing s with
  | nil => simp [runOps]
  | cons i is ih =>
    simp only [List.cons_append, runOps_cons_next, ih]
    constructor
    · rintro ⟨u, hu, w, hw, ht⟩; exact ⟨w, ⟨u, hu, hw⟩, ht⟩
    · rintro ⟨w, ⟨u, hu, hw⟩, ht⟩; exact ⟨u, hu, w, hw, ht⟩

/-- An operation completes only on a block that is not halted. -/
theorem exec_next_live {i : Instr} {s t : State} (h : exec i s = .next t) : s.halted = false := by
  cases i <;>
    simp only [exec, execWriteCtrl_next, execWriteMask_next, execReadStatus_next, execWriteScroll_next,
      execWriteAddr_next, execWriteOamAddr_next, execWriteOamData_next, execReadOamData_next, execNmiAck_next,
      execOamDma_next, execWriteData_next, execReadData_next] at h
  case tick e => exact (execTick_next h).1
  all_goals exact h.1

/-- An outcome with its next state changed: how one says that an operation does not look at a field. -/
def mapNext (g : State → State) : Host.Outcome State Fault Refusal → Host.Outcome State Fault Refusal
  | .next t => .next (g t)
  | .fault f => .fault f
  | .refused r => .refused r

@[simp] theorem mapNext_next (g : State → State) (t : State) : mapNext g (.next t) = .next (g t) := rfl
@[simp] theorem mapNext_fault (g : State → State) (f : Fault) : mapNext g (.fault f) = .fault f := rfl
@[simp] theorem mapNext_refused (g : State → State) (r : Refusal) : mapNext g (.refused r) = .refused r := rfl
@[simp] theorem mapNext_raiseFault (g : State → State) (f : Fault) : mapNext g (raiseFault f) = raiseFault f := rfl

theorem ifRunning_mapNext {g : State → State} {s : State} {k k' : Host.Outcome State Fault Refusal}
    (hs : (g s).halted = s.halted) (hk : k' = mapNext g k) : ifRunning (g s) k' = mapNext g (ifRunning s k) := by
  unfold ifRunning
  rw [hs, hk]
  cases s.halted <;> rfl

theorem oamStoreAll_withPending (p : List DriverInput) (bs : List Byte) : ∀ s : State,
    oamStoreAll { s with pending := p } bs = { oamStoreAll s bs with pending := p } := by
  induction bs with
  | nil => intro s; rfl
  | cons b bs ih => intro s; rw [oamStoreAll_cons, oamStoreAll_cons, ← ih]; rfl

/-- No operation looks at what the driver presents later. -/
theorem exec_withPending (i : Instr) (s : State) (p : List DriverInput) :
    exec i { s with pending := p } = mapNext (fun t => { t with pending := p }) (exec i s) := by
  cases i
  all_goals refine ifRunning_mapNext (g := fun t => { t with pending := p }) (s := s) rfl ?_
  case writeScroll => cases h : s.wScroll <;> simp [storeScroll, complete, h]
  case writeAddr => cases h : s.wAddr <;> simp [storeAddr, complete, h]
  case writeData => cases h : busTarget s.mirroring s.v <;> simp [busWrite, writeResponse, complete, h]
  case readData =>
    cases h : busTarget s.mirroring s.v <;> simp only [busRead, patRead, h]
    · by_cases hp : s.v.toNat < s.patternLen <;> by_cases hb : bufferedRead s.v = true <;>
        simp [complete, hp, hb, advanceV]
    all_goals by_cases hb : bufferedRead s.v = true <;> simp [complete, hb, advanceV, ramRead, palRead]
  case oamDma b => by_cases h : b.length = oamSize <;> simp [complete, h, oamStoreAll_withPending]
  case tick e => simp only [rollScanline, complete]; split_ifs <;> rfl
  all_goals rfl

end Sys2Proof.Machine
end

