-- ==== Sys2Proof/Machine/Trace.lean ====
section
/-! DEFINITION. The trace syntax of spec/30_encoding.md R86: one operation per line, and the `cmd/operand` encoding of
a line. -/

namespace Sys2Proof.Machine

open Sys2Proof

/-- The mnemonic of each operation (R82). -/
def mnemonic : Instr → String
  | .writeCtrl _ => "WRITE_CTRL"
  | .writeMask _ => "WRITE_MASK"
  | .readStatus => "READ_STATUS"
  | .writeOamAddr _ => "WRITE_OAM_ADDR"
  | .writeOamData _ => "WRITE_OAM_DATA"
  | .readOamData => "READ_OAM_DATA"
  | .writeScroll _ => "WRITE_SCROLL"
  | .writeAddr _ => "WRITE_ADDR"
  | .writeData _ => "WRITE_DATA"
  | .readData => "READ_DATA"
  | .oamDma _ => "OAM_DMA"
  | .tick _ => "TICK"
  | .nmiAck => "NMI_ACK"

/-- One hexadecimal digit. -/
def hexDigit (n : Nat) : Char := "0123456789ABCDEF".toList.getD n '?'
/-- A byte as `0x` and two digits. -/
def hexByte (b : Nat) : String := "0x" ++ String.ofList [hexDigit (b / 16 % 16), hexDigit (b % 16)]

/-- The trace line of a completed operation with its response; `block` names the DMA block. -/
def traceLine (block : String) (i : Instr) (r : Response) : String :=
  match i with
  | .oamDma _ => mnemonic i ++ " " ++ block
  | .tick e =>
    mnemonic i ++ " " ++ toString e.toNat ++
      (match r.frameComplete with
      | some true => " -> true"
      | some false => " -> false"
      | none => "")
  | .writeCtrl b | .writeMask b | .writeOamAddr b | .writeOamData b | .writeScroll b | .writeAddr b
  | .writeData b => mnemonic i ++ " " ++ hexByte b.toNat
  | .readStatus | .readOamData | .readData =>
    mnemonic i ++
      (match r.dout with
      | some b => " -> " ++ hexByte b.toNat
      | none => "")
  | .nmiAck => mnemonic i

/-- The encoding of a trace line: the pair (command code, operand), `-` where there is no operand. TICK counts are in
decimal. -/
def tracePair (block : String) (i : Instr) : String :=
  hexByte i.command.toNat ++ "/" ++
    (match i with
    | .oamDma _ => block
    | .tick e => toString e.toNat
    | .writeCtrl b | .writeMask b | .writeOamAddr b | .writeOamData b | .writeScroll b | .writeAddr b
    | .writeData b => hexByte b.toNat
    | .readStatus | .readOamData | .readData | .nmiAck => "-")

end Sys2Proof.Machine
end

