-- ==== Sys2Proof/Tests/Slice0.lean ====
section
/-! SUPPORT. Tests whose expected values are the spec's own (spec/95_test_vectors.md, the vector's number in each
docstring), decoding of words written out from spec/30_encoding.md R82, and for each statement with hypotheses a
witness: a concrete state and operands that meet all of them. -/

namespace Sys2Proof.Tests

open Sys2Proof Sys2Proof.Machine Sys2Proof.Safety

/-- Whether an outcome is a next state. -/
def isNext : Host.Outcome State Fault Refusal → Bool
  | .next _ => true
  | .fault _ => false
  | .refused _ => false

/-- The next state of an outcome; the reset state where there is none. -/
def after : Host.Outcome State Fault Refusal → State
  | .next t => t
  | .fault _ => State.reset
  | .refused _ => State.reset

/-- The fault of an outcome. -/
def faultOf : Host.Outcome State Fault Refusal → Option Fault
  | .next _ => none
  | .fault f => some f
  | .refused _ => none

/-- The refusal of an outcome. -/
def refusalIn : Host.Outcome State Fault Refusal → Option Refusal
  | .next _ => none
  | .fault _ => none
  | .refused r => some r

theorem next_after {o : Host.Outcome State Fault Refusal} (h : isNext o = true) : o = .next (after o) := by
  cases o <;> simp [isNext, after] at *

theorem exists_next {o : Host.Outcome State Fault Refusal} (h : isNext o = true) : ∃ t, o = .next t :=
  ⟨_, next_after h⟩

theorem eq_fault {o : Host.Outcome State Fault Refusal} {f : Fault} (h : faultOf o = some f) : o = .fault f := by
  cases o with
  | next _ => simp [faultOf] at h
  | fault _ => simp [faultOf] at h; rw [h]
  | refused _ => simp [faultOf] at h

/-- A fresh block with its address register at `a`. -/
def atAddr (a : BusAddr) : State := { State.reset with v := a }

/-- A fresh block at a frame position. -/
def atFrame (line cyc : BitVec 9) : State := { State.reset with scanline := line, cycles := cyc }

/-- The block `B[i] = i` of vectors O5 and O6. -/
def ramp : List Byte := (List.range 256).map (BitVec.ofNat 8)

/-- One completed operation of each kind on a fresh block. -/
def oneOfEach : List Instr :=
  [.writeCtrl 0x80, .writeMask 0x1E, .readStatus, .writeOamAddr 0xFF, .writeOamData 0x12, .readOamData,
   .writeScroll 0x7D, .writeAddr 0x24, .writeData 0x99, .readData, .oamDma ramp, .tick 255, .nmiAck]

/-! ## Well-formedness -/

/-- A DMA block one byte short, and one byte long. -/
theorem test_wf_refuses_short_dma : (Instr.oamDma (List.replicate 255 0)).wellFormed = false := by
  rw [Instr.wellFormed, List.length_replicate]; decide
theorem test_wf_refuses_long_dma : (Instr.oamDma (List.replicate 257 0)).wellFormed = false := by
  rw [Instr.wellFormed, List.length_replicate]; decide
theorem test_wf_accepts_dma : (Instr.oamDma ramp).wellFormed = true := by simp [Instr.wellFormed, ramp]
/-- Two status bits at one position; the two control bits at one position. -/
theorem test_wf_refuses_shared_status_bit : ¬ ({ Config.default with statusSprite0Bit := 7 } : Config).bitsDistinct := by
  decide
theorem test_wf_refuses_shared_control_bit : ¬ ({ Config.default with ctrlIncBit := 7 } : Config).bitsDistinct := by
  decide

/-! ## Decoding: every row of R82 by its binary code, the operand byte in bits 15:8; vector 2.11 -/

theorem test_decode_writeCtrl : decodeTableWord 16 0b10000000_00000000 = some (.writeCtrl 0x80) := by decide
theorem test_decode_writeMask : decodeTableWord 16 0b00011110_00000001 = some (.writeMask 0x1E) := by decide
theorem test_decode_readStatus : decodeTableWord 8 0b00001010 = some .readStatus := by decide
theorem test_decode_writeOamAddr : decodeTableWord 16 0b00010000_00000011 = some (.writeOamAddr 0x10) := by decide
theorem test_decode_writeOamData : decodeTableWord 16 0b01011010_00000100 = some (.writeOamData 0x5A) := by decide
theorem test_decode_readOamData : decodeTableWord 8 0b00001100 = some .readOamData := by decide
theorem test_decode_writeScroll : decodeTableWord 16 0b01111101_00000101 = some (.writeScroll 0x7D) := by decide
theorem test_decode_writeAddr : decodeTableWord 16 0b00100100_00000110 = some (.writeAddr 0x24) := by decide
theorem test_decode_writeData : decodeTableWord 16 0b01100110_00000111 = some (.writeData 0x66) := by decide
theorem test_decode_readData : decodeTableWord 8 0b00001111 = some .readData := by decide
theorem test_decode_oamDma : decode ⟨0b10000, 0, ramp, 0⟩ = .ok (.oamDma ramp) :=
  decode_oamDma 0 0 (by simp [ramp])
theorem test_decode_tick : decodeTableWord 16 0b11111111_00010001 = some (.tick 255) := by decide
theorem test_decode_nmiAck : decodeTableWord 8 0b00010010 = some .nmiAck := by decide

/-- A word whose operand byte is left out carries an operand of zero; bits 7:5 of the code byte carry nothing. -/
theorem test_decode_without_operand : decodeTableWord 8 0b11100111 = some (.writeData 0) := by decide
/-- The near misses of vector 2.11: a status write, a read of the address register, system function 3. -/
theorem test_decode_near_misses : decodeTableWord 8 0b00010 = none ∧ decodeTableWord 8 0b01110 = none ∧
    decodeTableWord 8 0b10011 = none := by decide
/-- Nineteen codes are refused, the other thirteen are those of R82. -/
theorem test_decode_refused_codes :
    (List.range 32).filter (fun c => (decodeCommand ⟨BitVec.ofNat 5 c, 0, [], 0⟩).isNone) =
      [0x02, 0x08, 0x09, 0x0B, 0x0D, 0x0E, 0x13, 0x14, 0x15, 0x16, 0x17, 0x18, 0x19, 0x1A, 0x1B, 0x1C, 0x1D, 0x1E,
       0x1F] := by decide
/-- The DMA block of a table word is its 256 operand bytes, zero where the word gives none. -/
theorem test_decode_dma_word : decodeTableWord 8 0x10 = some (.oamDma (List.replicate 256 0)) := by decide +kernel

/-! ## Trace lines: the examples of R86 -/

theorem test_trace_line : traceLine "B" (.writeAddr 0x24) Response.none = "WRITE_ADDR 0x24" := by decide +kernel
theorem test_trace_pair : tracePair "B" (.writeAddr 0x24) = "0x06/0x24" ∧ tracePair "B" .readData = "0x0F/-" := by
  decide +kernel
theorem test_trace_tick : traceLine "B" (.tick 92) (Response.frame true) = "TICK 92 -> true" := by decide +kernel

/-! ## The address functions: the tables of vector 2.5 -/

theorem test_mirror_table :
    ([0x2000, 0x23FF, 0x2400, 0x2405, 0x27FF, 0x2800, 0x2805, 0x2BFF, 0x2C00, 0x2C05, 0x2FE0, 0x2FFF, 0x3405, 0x3EFF,
      0x3FFF].map fun a => (mirror .horizontal a, mirror .vertical a)) =
      [(some 0x000, some 0x000), (some 0x3FF, some 0x3FF), (some 0x000, some 0x400), (some 0x005, some 0x405),
       (some 0x3FF, some 0x7FF), (some 0x400, some 0x000), (some 0x405, some 0x005), (some 0x7FF, some 0x3FF),
       (some 0x400, some 0x400), (some 0x405, some 0x405), (some 0x7E0, some 0x7E0), (some 0x7FF, some 0x7FF),
       (some 0x005, some 0x405), (some 0x6FF, some 0x6FF), (some 0x7FF, some 0x7FF)] := by decide
theorem test_palidx_table :
    ([0x3EFF, 0x3F00, 0x3F0F, 0x3F10, 0x3F11, 0x3F14, 0x3F15, 0x3F18, 0x3F1C, 0x3F1F, 0x3F20].map palidx) =
      [none, some 0x00, some 0x0F, some 0x00, some 0x11, some 0x04, some 0x15, some 0x08, some 0x0C, some 0x1F, none] := by
  decide

/-! ## One step of each operation -/

/-- C1, and C7: only the VBLANK bit of `status` counts. -/
theorem test_writeCtrl_raises :
    (after (exec (.writeCtrl 0x80) { State.reset with status := 0x80 })).nmi = true := by decide
theorem test_writeCtrl_other_status_bits :
    (after (exec (.writeCtrl 0x80) { State.reset with status := 0x60 })).nmi = false := by decide
/-- M2. -/
theorem test_writeMask : (after (exec (.writeMask 0x1E) { State.reset with mask := 0xFF })).mask = 0x1E := by decide
/-- T1, T5. -/
theorem test_readStatus :
    let t := after (exec .readStatus { State.reset with status := 0xE0, wAddr := false, wScroll := false })
    t.out.dout = some 0xE0 ∧ t.status = 0x60 ∧ t.wAddr = true ∧ t.wScroll = true := by decide
theorem test_readStatus_keeps_low_bits :
    (after (exec .readStatus { State.reset with status := 0x9F })).status = 0x1F := by decide
/-- O1. -/
theorem test_writeOamAddr : (after (exec (.writeOamAddr 0xFF) State.reset)).oamAddr = 0xFF := by decide
/-- O2. -/
theorem test_writeOamData_wraps :
    let t := after (exec (.writeOamData 0x12) { State.reset with oamAddr := 0xFF })
    Memory.read t.oam 0xFF = 0x12 ∧ t.oamAddr = 0x00 := by decide
/-- The example of R143. -/
theorem test_readOamData :
    let t := after (exec .readOamData { State.reset with oam := [(0x0F, 0x88)], oamAddr := 0x0F })
    t.out.dout = some 0x88 ∧ t.oamAddr = 0x0F := by decide
/-- L2, L3. -/
theorem test_writeScroll_y :
    let t := after (exec (.writeScroll 0x5E) { State.reset with scrollX := 0x7D, wScroll := false })
    t.scrollX = 0x7D ∧ t.scrollY = 0x5E ∧ t.wScroll = true ∧ t.wAddr = true := by decide
theorem test_writeScroll_x_again :
    let t := after (exec (.writeScroll 0xFF) { State.reset with scrollX := 0x7D, scrollY := 0x5E })
    t.scrollX = 0xFF ∧ t.scrollY = 0x5E ∧ t.wScroll = false := by decide
/-- A3, A7. -/
theorem test_writeAddr_high :
    let t := after (exec (.writeAddr 0xFF) (atAddr 0x1234))
    t.v = 0x3F34 ∧ t.wAddr = false := by decide
theorem test_writeAddr_low :
    let t := after (exec (.writeAddr 0x00) { atAddr 0x3FFF with wAddr := false })
    t.v = 0x3F00 ∧ t.wAddr = true := by decide
/-- W3, and W9 with the step of W13. -/
theorem test_writeData_vertical :
    let t := after (exec (.writeData 0x66) { atAddr 0x2405 with mirroring := .vertical })
    t.ram = [(0x405, 0x66)] ∧ t.v = 0x2406 := by decide
theorem test_writeData_palette_mirror :
    let t := after (exec (.writeData 0x2A) { atAddr 0x3F10 with ctrl := 0x04 })
    t.palette = [(0x00, 0x2A)] ∧ t.v = 0x3F30 := by decide
/-- D5 with its buffer, and D6. -/
theorem test_readData_buffered :
    let t := after (exec .readData { atAddr 0x2000 with buf := 0x5A, ram := [(0, 0xAA)] })
    t.out.dout = some 0x5A ∧ t.buf = 0xAA ∧ t.v = 0x2001 := by decide
theorem test_readData_palette :
    let t := after (exec .readData { atAddr 0x3F00 with buf := 0xCD, palette := [(0, 0x2A)] })
    t.out.dout = some 0x2A ∧ t.buf = 0xCD ∧ t.v = 0x3F01 := by decide
/-- O6. -/
theorem test_oamDma_wraps :
    let t := after (exec (.oamDma ramp) { State.reset with oamAddr := 0x10 })
    Memory.read t.oam 0xFF = 0xEF ∧ Memory.read t.oam 0x00 = 0xF0 ∧ Memory.read t.oam 0x0F = 0xFF ∧ t.oamAddr = 0x10 := by
  decide +kernel
/-- K7, K11. -/
theorem test_tick_enters_vblank :
    let t := after (exec (.tick 3) { atFrame 240 340 with ctrl := 0x80, status := 0x40 })
    t.cycles = 2 ∧ t.scanline = 241 ∧ t.status = 0x80 ∧ t.nmi = true ∧ t.out.frameComplete = some false := by decide
theorem test_tick_wraps :
    let t := after (exec (.tick 1) { atFrame 261 340 with status := 0xE0, nmi := true })
    t.cycles = 0 ∧ t.scanline = 0 ∧ t.status = 0x20 ∧ t.nmi = false ∧ t.out.frameComplete = some true := by decide
/-- K14. -/
theorem test_nmiAck :
    let t := after (exec .nmiAck { State.reset with nmi := true, status := 0x80 })
    t.nmi = false ∧ t.status = 0x80 := by decide

/-! ## Faults (vector 2.10) and the step -/

/-- F1 and F3, F6, F7 at the access itself. -/
theorem test_faults :
    faultOf (exec (.writeData 0) (atAddr 0x3000)) = some (.mirrorWindowAccess 0x3000) ∧
    faultOf (exec .readData (atAddr 0x3EFF)) = some (.mirrorWindowAccess 0x3EFF) ∧
    faultOf (exec .readData (atAddr 0x3FFF)) = some (.paletteIndexRange 0x3FFF) ∧
    faultOf (exec .readData (atAddr 0x0800)) = some (.patternIndexRange 0x0800) := by decide
/-- F8: a write past the pattern memory is dropped with its diagnostic. -/
theorem test_dropped_pattern_write :
    let t := after (exec (.writeData 0x01) (atAddr 0x0800))
    t.out.diag = some ⟨0x0800, 0x01⟩ ∧ t.v = 0x0801 := by decide
/-- A presented word runs as the first operation after reset, the reserved code is refused. -/
theorem test_step_runs_fetch_word :
    (after (step (State.reset.withFetchWord 16 0x8000))).ctrl = 0x80 ∧
    refusalIn (step (State.reset.withFetchWord 8 0x02)) = some (.reservedCommand 0x02) := by decide
/-- The strobe on a halted block (R211). -/
theorem test_strobe_leaves_halt :
    let t := after (step { State.reset with
      halted := true, faultOut := some (.mirrorWindowAccess 0x3000), v := 0x3000
      pending := [.resetStrobe [0x00, 0xAB] .vertical] })
    t.halted = false ∧ t.faultOut = none ∧ t.v = 0 ∧ t.mirroring = .vertical ∧ t.patternLen = 2 ∧
      t.pattern = [(1, 0xAB)] := by decide

/-! ## Witnesses: a state and operands that meet the hypotheses of each statement, at the ends of each range -/

/-- Every operation, the DMA among them, completes on a fresh block with its other hypotheses met. -/
theorem witness_completes : ∀ i ∈ oneOfEach, i.wellFormed = true ∧ ∃ t, exec i State.reset = .next t := by
  have h : oneOfEach.all (fun i => i.wellFormed && isNext (exec i State.reset)) = true := by decide +kernel
  intro i hi
  have := List.all_eq_true.1 h i hi
  simp only [Bool.and_eq_true] at this
  exact ⟨this.1, exists_next this.2⟩

theorem witness_TableWordRoundTrip : (Instr.oamDma ramp).wellFormed = true ∧ (Instr.tick 255).wellFormed = true := by
  simp [Instr.wellFormed, ramp]

theorem witness_DecodedOperationIsTheOnePresented :
    decode ⟨0x07, 0x66, [], 0⟩ = .ok (.writeData 0x66) ∧ decode ⟨0x10, 0, ramp, 0⟩ = .ok (.oamDma ramp) ∧
    decode ⟨0x0F, 0, [], 0⟩ = .ok .readData :=
  ⟨by decide, test_decode_oamDma, by decide⟩

theorem witness_ReservedCodesAreRefused :
    (⟨0x02, 0xFF, [], 0xFF⟩ : Transaction).cmd ∈ [0x02#5, 0x08, 0x09, 0x0B, 0x0D, 0x0E, 0x13, 0x14, 0x15, 0x16, 0x17,
      0x18, 0x19, 0x1A, 0x1B, 0x1C, 0x1D, 0x1E, 0x1F] ∧
    (⟨0x12, 0xFF, [], 0xFF⟩ : Transaction).cmd ∈ [0x00#5, 0x01, 0x0A, 0x03, 0x04, 0x0C, 0x05, 0x06, 0x07, 0x0F, 0x11,
      0x12] ∧
    (⟨0x10, 0xFF, ramp, 0xFF⟩ : Transaction).cmd = 0x10#5 ∧ ramp.length = 256 ∧
    ({ State.reset with pending := [.operation ⟨0x1F, 0, [], 0⟩] } : State).pending =
      .operation ⟨0x1F, 0, [], 0⟩ :: [] := by
  refine ⟨by decide, by decide, rfl, by simp [ramp], rfl⟩

theorem witness_DmaBlockOfAnotherSizeIsRefused :
    (⟨0x10, 0, [0x77], 0⟩ : Transaction).cmd = 0x10#5 ∧ [(0x77 : Byte)].length ≠ 256 ∧
    ({ State.reset with pending := [.operation ⟨0x10, 0, [0x77], 0⟩] } : State).pending =
      .operation ⟨0x10, 0, [0x77], 0⟩ :: [] := by
  refine ⟨rfl, by decide, rfl⟩

theorem witness_StepRunsTheDecodedOperation :
    (present State.reset ⟨0x11, 0, [], 255⟩).pending = .operation ⟨0x11, 0, [], 255⟩ :: [] ∧
    decode ⟨0x11, 0, [], 255⟩ = .ok (.tick 255) := by
  refine ⟨rfl, by decide⟩

theorem witness_NothingPresentedHoldsTheState : State.reset.pending = [] := rfl

theorem witness_DriverStreamRunsInOrder :
    (∀ i ∈ [Instr.writeAddr 0x24, .writeAddr 0x05, .writeData 0x66], i.wellFormed = true) ∧
    ({ State.reset with pending := [.operation ⟨0x06, 0x24, [], 0⟩, .operation ⟨0x06, 0x05, [], 0⟩,
        .operation ⟨0x07, 0x66, [], 0⟩] } : State).pending =
      [Instr.writeAddr 0x24, .writeAddr 0x05, .writeData 0x66].map (fun i => DriverInput.operation (encode i)) ++ [] := by
  refine ⟨by decide, rfl⟩

/-- A halted block with the strobe presented. -/
def haltedBlock : State :=
  { State.reset with
    halted := true, faultOut := some (.paletteIndexRange 0x3F20), v := 0x3F20, cycles := 340
    pending := [.resetStrobe [0xAB] .vertical] }

theorem witness_ResetStrobeConstructsAnew : haltedBlock.pending = .resetStrobe [0xAB] .vertical :: [] := rfl

/-- A block in the vblank period, an interrupt pending, a byte in every memory, a READ_DATA presented. -/
def busyBlock : State :=
  { State.reset with
    scanline := 261, cycles := 340, status := 0x80, ctrl := 0x80, nmi := true, v := 0x2005, wAddr := false
    ram := [(0x005, 0x66), (0x7FF, 0x01)], palette := [(0x1F, 0x3C)], oam := [(0xFF, 0x5A)], pattern := [(0x7FF, 0x77)]
    pending := [.operation ⟨0x0F, 0, [], 0⟩, .operation ⟨0x11, 0, [], 1⟩] }

theorem witness_EveryStepKeepsTheInvariant : Inv busyBlock ∧ ∃ t, step busyBlock = .next t := by
  refine ⟨⟨⟨?_, ?_, ?_, ?_⟩, ?_, ?_, ?_, ?_, ?_, ?_, ?_, ?_, ?_, ?_⟩, exists_next ?_⟩ <;> decide

theorem witness_HaltedBlockOnlyReconstructs :
    AfterFault (.paletteIndexRange 0x3F20) haltedBlock ∧
    ∃ t, step haltedBlock = .next t ∧ t.halted = false :=
  ⟨⟨rfl, rfl⟩, _, next_after (by decide), by decide⟩

/-- Both ends of the range of each fault. -/
theorem witness_FaultsComeFromTheDataPort :
    exec .readData (atAddr 0x3000) = .fault (.mirrorWindowAccess 0x3000) ∧
    exec (.writeData 0) (atAddr 0x3EFF) = .fault (.mirrorWindowAccess 0x3EFF) ∧
    exec (.writeData 0) (atAddr 0x3F20) = .fault (.paletteIndexRange 0x3F20) ∧
    exec .readData (atAddr 0x3FFF) = .fault (.paletteIndexRange 0x3FFF) ∧
    exec .readData (atAddr 0x0800) = .fault (.patternIndexRange 0x0800) ∧
    exec .readData (atAddr 0x1FFF) = .fault (.patternIndexRange 0x1FFF) := by
  refine ⟨eq_fault ?_, eq_fault ?_, eq_fault ?_, eq_fault ?_, eq_fault ?_, eq_fault ?_⟩ <;> decide

theorem witness_ElevenOperationsAreTotal :
    (Instr.oamDma ramp).wellFormed = true ∧ State.reset.halted = false ∧ Instr.oamDma ramp ≠ .readData ∧
    ∀ d, Instr.oamDma ramp ≠ .writeData d :=
  ⟨by simp [Instr.wellFormed, ramp], rfl, by simp, by simp⟩

theorem witness_ConstructionArgumentsAreImmutable :
    (∃ t, step busyBlock = .next t) ∧ ∀ bytes m rest, busyBlock.pending ≠ .resetStrobe bytes m :: rest :=
  ⟨exists_next (by decide), by simp [busyBlock]⟩

theorem witness_FootprintOfEveryOperation : ∀ i ∈ oneOfEach, ∃ t, exec i State.reset = .next t :=
  fun i hi => (witness_completes i hi).2

theorem witness_ResponsesOfEveryOperation : ∀ i ∈ oneOfEach, ∃ t, exec i State.reset = .next t :=
  fun i hi => (witness_completes i hi).2

theorem witness_WriteCtrlReplacesAndMayRaise : busyBlock.halted = false := rfl
theorem witness_WriteMaskReplaces : busyBlock.halted = false := rfl
theorem witness_ReadStatusReturnsThenClears : busyBlock.halted = false := rfl
theorem witness_WriteScrollAlternates : State.reset.halted = false ∧ State.reset.wScroll = true ∧
    ({ State.reset with wScroll := false } : State).halted = false ∧
    ({ State.reset with wScroll := false } : State).wScroll = false := by decide
theorem witness_WriteAddrWritesOneHalf : State.reset.halted = false ∧ State.reset.wAddr = true ∧
    busyBlock.halted = false ∧ busyBlock.wAddr = false := by decide
theorem witness_AddressPairAssembles : State.reset.halted = false ∧ State.reset.wAddr = true := by decide
theorem witness_StatusReadResynchronises : busyBlock.halted = false := rfl

/-- The ends of the domain of `mirror` and, for R55's last property, of the name tables. -/
theorem witness_MirrorIsTheBankMap :
    (0x1FFF : BusAddr).toNat < 0x2000 ∧ 0x2000 ≤ (0x2000 : BusAddr).toNat ∧ 0x2000 ≤ (0x3FFF : BusAddr).toNat ∧
    (0x2000 : BusAddr).toNat ≤ 0x2FFF ∧ (0x2FFF : BusAddr).toNat ≤ 0x2FFF := by decide

theorem witness_PalidxRedirectsFourAddresses :
    (0x3EFF : BusAddr).toNat < 0x3F00 ∧ 0x3F1F < (0x3F20 : BusAddr).toNat ∧ 0x3F00 ≤ (0x3F00 : BusAddr).toNat ∧
    (0x3F1F : BusAddr).toNat ≤ 0x3F1F ∧ (0x3F1C : BusAddr).toNat = 0x3F1C ∧
    ¬ ((0x3F1F : BusAddr).toNat = 0x3F10 ∨ (0x3F1F : BusAddr).toNat = 0x3F14 ∨ (0x3F1F : BusAddr).toNat = 0x3F18 ∨
      (0x3F1F : BusAddr).toNat = 0x3F1C) := by decide

theorem witness_FourPaletteCellsNeverChange :
    (∃ t, exec (.writeData 0x2A) (atAddr 0x3F10) = .next t) ∧ 0x10 ∈ [0x10, 0x14, 0x18, 0x1C] :=
  ⟨exists_next (by decide), by decide⟩

/-- The two ends of every range of the address map, on a block with canonical memories. -/
theorem witness_WriteDataByRange :
    (∀ a : BusAddr, (atAddr a).halted = false ∧ Memory.wf (atAddr a).ram = true ∧ Memory.wf (atAddr a).palette = true) ∧
    (atAddr 0x0000).v.toNat ≤ 0x1FFF ∧ (atAddr 0x1FFF).v.toNat ≤ 0x1FFF ∧
    (0x2000 ≤ (atAddr 0x2000).v.toNat ∧ (atAddr 0x2FFF).v.toNat ≤ 0x2FFF) ∧
    (0x3000 ≤ (atAddr 0x3000).v.toNat ∧ (atAddr 0x3EFF).v.toNat ≤ 0x3EFF) ∧
    (0x3F00 ≤ (atAddr 0x3F00).v.toNat ∧ (atAddr 0x3F1F).v.toNat ≤ 0x3F1F) ∧
    0x3F20 ≤ (atAddr 0x3F20).v.toNat ∧ 0x3F20 ≤ (atAddr 0x3FFF).v.toNat :=
  ⟨fun _ => ⟨rfl, rfl, rfl⟩, by decide⟩

theorem witness_ReadDataByRange :
    (∀ a : BusAddr, (atAddr a).halted = false) ∧
    ((atAddr 0x07FF).v.toNat ≤ 0x1FFF ∧ (atAddr 0x07FF).v.toNat < (atAddr 0x07FF).patternLen) ∧
    ((atAddr 0x0800).v.toNat ≤ 0x1FFF ∧ (atAddr 0x0800).patternLen ≤ (atAddr 0x0800).v.toNat) ∧
    (0x2000 ≤ (atAddr 0x2000).v.toNat ∧ (atAddr 0x2FFF).v.toNat ≤ 0x2FFF) ∧
    (0x3000 ≤ (atAddr 0x3000).v.toNat ∧ (atAddr 0x3EFF).v.toNat ≤ 0x3EFF) ∧
    (0x3F00 ≤ (atAddr 0x3F00).v.toNat ∧ (atAddr 0x3F1F).v.toNat ≤ 0x3F1F) ∧
    0x3F20 ≤ (atAddr 0x3F20).v.toNat :=
  ⟨fun _ => rfl, by decide⟩

theorem witness_DataPortCompletesExactlyWhereLegal :
    busyBlock.halted = false ∧ WriteLegal busyBlock.v ∧ ReadLegal busyBlock busyBlock.v ∧
    ¬ WriteLegal (atAddr 0x3000).v ∧ ¬ ReadLegal (atAddr 0x0800) (atAddr 0x0800).v := by decide

/-- One address where the bus write succeeds and one where it faults. -/
theorem witness_AddressPairThenDataStores :
    State.reset.halted = false ∧ State.reset.wAddr = true ∧ Memory.wf State.reset.ram = true ∧
    (0x2405 : BusAddr).toNat = ((0x24 : Byte).toNat * 256 + (0x05 : Byte).toNat) % 0x4000 ∧
    0x2000 ≤ (0x2405 : BusAddr).toNat ∧ (0x2405 : BusAddr).toNat ≤ 0x2FFF ∧
    (∃ u, busWrite State.reset 0x2405 0x66 = .ok u) ∧
    (0x3000 : BusAddr).toNat = ((0xF0 : Byte).toNat * 256 + (0x00 : Byte).toNat) % 0x4000 ∧
    busWrite State.reset 0x3000 0x66 = .error (.mirrorWindowAccess 0x3000) := by
  refine ⟨by decide, by decide, by decide, by decide, by decide, by decide, ?_, by decide, ?_⟩
  · exact ⟨_, by unfold busWrite; rw [show busTarget State.reset.mirroring 0x2405 = .ram 0x005 from by decide]⟩
  · unfold busWrite
    rw [show busTarget State.reset.mirroring 0x3000 = .nothing (.mirrorWindowAccess 0x3000) from by decide]

theorem witness_BufferChangesOnlyByBufferedRead :
    exec .readData busyBlock = .next (after (exec .readData busyBlock)) ∧
    (after (exec .readData busyBlock)).buf ≠ busyBlock.buf := ⟨next_after (by decide), by decide⟩

/-- D13: the cell is overwritten between the two reads. -/
theorem witness_BufferedReadLaw :
    let s := { State.reset with v := 0x2000, ram := [(0, 0x10)] }
    let between : List Instr := [.writeAddr 0x20, .writeAddr 0x00, .writeData 0x20, .writeAddr 0x20, .writeAddr 0x10]
    let s₁ := after (exec .readData s)
    let s₂ := after (runOps between s₁)
    s.v.toNat ≤ 0x2FFF ∧ exec .readData s = .next s₁ ∧ Instr.readData ∉ between ∧ runOps between s₁ = .next s₂ ∧
    s₂.v.toNat ≤ 0x2FFF ∧ exec .readData s₂ = .next (after (exec .readData s₂)) := by
  refine ⟨by decide, next_after (by decide), by decide, next_after (by decide), by decide, next_after (by decide)⟩

/-- The source's two aliased addresses of table 1 and table 0. -/
theorem witness_PokeThenPeekThroughAnAlias :
    State.reset.halted = false ∧ State.reset.wAddr = true ∧
    State.reset.ctrl.getLsbD State.reset.cfg.ctrlIncBit.val = false ∧ Memory.wf State.reset.ram = true ∧
    (0x2405 : BusAddr).toNat = (0x2405 : BitVec 16).toNat ∧ (0x2005 : BusAddr).toNat = (0x2005 : BitVec 16).toNat ∧
    0x2000 ≤ (0x2405 : BusAddr).toNat ∧ (0x2405 : BusAddr).toNat ≤ 0x2FFF ∧ 0x2000 ≤ (0x2005 : BusAddr).toNat ∧
    (0x2005 : BusAddr).toNat < 0x2FFF ∧ mirror State.reset.mirroring 0x2405 = mirror State.reset.mirroring 0x2005 := by
  decide

/-- F10, program P6 (its lines 4 and 5 write different bytes), F11 and the step of W13: past 0x2FFF after a read and after
a write, past 0x3F1F, and with step 32. -/
theorem witness_RunningOffTheEndFaults :
    (exec .readData (atAddr 0x2FFF) = .next (after (exec .readData (atAddr 0x2FFF))) ∧
      (atAddr 0x2FFF).v.toNat ≤ 0x2FFF ∧ 0x3000 ≤ (after (exec .readData (atAddr 0x2FFF))).v.toNat) ∧
    (let s := { atAddr 0x2FFF with mirroring := .vertical }
     exec (.writeData 0xA2) s = .next (after (exec (.writeData 0xA2) s)) ∧ s.v.toNat ≤ 0x2FFF ∧
      0x3000 ≤ (after (exec (.writeData 0xA2) s)).v.toNat ∧ (0xA3 : Byte) ≠ 0xA2) ∧
    (exec (.writeData 0x3C) (atAddr 0x3F1F) = .next (after (exec (.writeData 0x3C) (atAddr 0x3F1F))) ∧
      0x3F00 ≤ (atAddr 0x3F1F).v.toNat ∧ (atAddr 0x3F1F).v.toNat = 0x3F1F) ∧
    (let s := { atAddr 0x3F00 with ctrl := 0x04 }
     exec (.writeData 0x01) s = .next (after (exec (.writeData 0x01) s)) ∧ 0x3F00 ≤ s.v.toNat ∧
      s.ctrl.getLsbD s.cfg.ctrlIncBit.val = true) := by
  refine ⟨⟨next_after ?_, ?_, ?_⟩, ⟨next_after ?_, ?_, ?_, ?_⟩, ⟨next_after ?_, ?_, ?_⟩, next_after ?_, ?_, ?_⟩ <;> decide

theorem witness_WriteOamAddrSetsThePointer : busyBlock.halted = false := rfl
theorem witness_WriteOamDataStoresAndIncrements : busyBlock.halted = false ∧ Memory.wf busyBlock.oam = true := by decide
theorem witness_ReadOamDataHasNoSideEffect : busyBlock.halted = false := rfl
theorem witness_OamDmaWrapsAround :
    busyBlock.halted = false ∧ ramp.length = 256 ∧ Memory.wf busyBlock.oam = true :=
  ⟨rfl, by simp [ramp], by decide⟩
theorem witness_OamDmaIsTwoHundredFiftySixWrites : busyBlock.halted = false ∧ ramp.length = 256 :=
  ⟨rfl, by simp [ramp]⟩
theorem witness_OamPokeThenPeek : busyBlock.halted = false ∧ Memory.wf busyBlock.oam = true := by decide

/-- K6 (no roll) and K5 (the least sum that rolls); then the four scanlines the clauses meet at. -/
theorem witness_TickByBoundary :
    Config.default.bitsDistinct ∧ (atFrame 5 85).halted = false ∧
    (atFrame 5 85).cycles.toNat + (255 : Byte).toNat < 341 ∧ 341 ≤ (atFrame 5 86).cycles.toNat + (255 : Byte).toNat ∧
    (atFrame 240 340).scanline.toNat = 240 ∧ 261 ≤ (atFrame 261 340).scanline.toNat ∧
    ((atFrame 239 340).scanline.toNat ≠ 240 ∧ (atFrame 239 340).scanline.toNat < 261) ∧
    ((atFrame 260 340).scanline.toNat ≠ 240 ∧ (atFrame 260 340).scanline.toNat < 261) := by decide

theorem witness_NmiAckClearsTheFlag : busyBlock.halted = false := rfl
theorem witness_TickRunClosedForm :
    busyBlock.halted = false ∧ busyBlock.cycles.toNat < 341 ∧ busyBlock.scanline.toNat < 262 := by decide

/-- The call that completes a frame and the call that begins vblank. -/
theorem witness_TickEventsByPosition :
    ((atFrame 261 340).cycles.toNat < 341 ∧ (atFrame 261 340).scanline.toNat < 262 ∧
      (atFrame 261 340).cfg.bitsDistinct ∧ ∃ t, exec (.tick 1) (atFrame 261 340) = .next t) ∧
    ((atFrame 240 340).status.getLsbD (atFrame 240 340).cfg.statusVblankBit.val = false ∧
      ∃ t, exec (.tick 1) (atFrame 240 340) = .next t) :=
  ⟨⟨by decide, by decide, by decide, exists_next (by decide)⟩, by decide, exists_next (by decide)⟩

theorem witness_SplitTicksReachTheSamePosition :
    let s := atFrame 240 300
    s.cycles.toNat < 341 ∧ s.scanline.toNat < 262 ∧
    (([255, 86] : List Byte).map BitVec.toNat).sum = (([100, 100, 141] : List Byte).map BitVec.toNat).sum ∧
    (∃ t, runOps (([255, 86] : List Byte).map Instr.tick) s = .next t) ∧
    ∃ t, runOps (([100, 100, 141] : List Byte).map Instr.tick) s = .next t := by
  refine ⟨by decide, by decide, by decide, exists_next (by decide), exists_next (by decide)⟩

theorem witness_InterruptRaisedAndClearedInTwoPlaces :
    ((atFrame 240 340).nmi = false ∧ ∃ t, exec (.tick 1) (atFrame 240 340) = .next t) ∧
    (busyBlock.nmi = true ∧ ∃ t, exec .nmiAck busyBlock = .next t) :=
  ⟨⟨rfl, exists_next (by decide)⟩, rfl, exists_next (by decide)⟩

theorem witness_StatusBitsSetAndCleared :
    busyBlock.cfg.bitsDistinct ∧ ∃ t, exec .readStatus busyBlock = .next t := ⟨by decide, exists_next (by decide)⟩

theorem witness_OnlyVblankIsEverSet :
    busyBlock.cfg.bitsDistinct ∧ (∃ t, step busyBlock = .next t) ∧
    ∀ j : Fin 8, j ≠ busyBlock.cfg.statusVblankBit → busyBlock.status.getLsbD j.val = false :=
  ⟨by decide, exists_next (by decide), by decide⟩

/-- A run that stays in the vblank period, and one that wraps. -/
theorem witness_PendingInterruptIsLostAtTheWrap :
    (busyBlock.nmi = true ∧ busyBlock.cycles.toNat < 341 ∧ 241 ≤ busyBlock.scanline.toNat ∧
      busyBlock.scanline.toNat < 262) ∧
    ((∃ t, runOps (([0] : List Byte).map Instr.tick) busyBlock = .next t) ∧
      busyBlock.scanline.toNat * 341 + busyBlock.cycles.toNat + (([0] : List Byte).map BitVec.toNat).sum < 89342) ∧
    ((∃ t, runOps (([1] : List Byte).map Instr.tick) busyBlock = .next t) ∧
      89342 ≤ busyBlock.scanline.toNat * 341 + busyBlock.cycles.toNat + (([1] : List Byte).map BitVec.toNat).sum ∧
      busyBlock.scanline.toNat * 341 + busyBlock.cycles.toNat + (([1] : List Byte).map BitVec.toNat).sum < 171523) := by
  refine ⟨by decide, ⟨exists_next (by decide), by decide⟩, exists_next (by decide), by decide, by decide⟩

theorem witness_WriteCtrlOrderAroundVblank :
    let s := atFrame 240 340
    let s' := { atFrame 240 340 with ctrl := 0x80 }
    (s.halted = false ∧ s.cfg.bitsDistinct ∧ s.nmi = false ∧ s.scanline.toNat = 240 ∧
      341 ≤ s.cycles.toNat + (1 : Byte).toNat ∧ s.ctrl.getLsbD s.cfg.ctrlNmiBit.val = false ∧
      (0x80 : Byte).getLsbD s.cfg.ctrlNmiBit.val = true) ∧
    (s'.halted = false ∧ s'.cfg.bitsDistinct ∧ s'.nmi = false ∧ s'.scanline.toNat = 240 ∧
      341 ≤ s'.cycles.toNat + (1 : Byte).toNat ∧ s'.ctrl.getLsbD s'.cfg.ctrlNmiBit.val = true ∧
      (0x7F : Byte).getLsbD s'.cfg.ctrlNmiBit.val = false) := by decide

theorem witness_InterruptRetriggersAnyNumberOfTimes :
    busyBlock.halted = false ∧ busyBlock.status.getLsbD busyBlock.cfg.statusVblankBit.val = true ∧
    (0x00 : Byte).getLsbD busyBlock.cfg.ctrlNmiBit.val = false ∧
    (0x80 : Byte).getLsbD busyBlock.cfg.ctrlNmiBit.val = true := by decide

theorem witness_MaskAndScrollAreOpaque :
    (∀ d, Instr.tick 1 ≠ .writeMask d) ∧ (∀ d, Instr.tick 1 ≠ .writeScroll d) ∧
    ∃ t, exec (.tick 1) busyBlock = .next t := ⟨by simp, by simp, exists_next (by decide)⟩

/-- 0xFB agrees with 0x80 in bits 7 and 2 and in no other. -/
theorem witness_OtherControlBitsHaveNoEffect :
    (0xFB : Byte).getLsbD busyBlock.cfg.ctrlNmiBit.val = busyBlock.ctrl.getLsbD busyBlock.cfg.ctrlNmiBit.val ∧
    (0xFB : Byte).getLsbD busyBlock.cfg.ctrlIncBit.val = busyBlock.ctrl.getLsbD busyBlock.cfg.ctrlIncBit.val ∧
    ∃ t, exec (.writeCtrl 0x00) busyBlock = .next t := ⟨by decide, by decide, exists_next (by decide)⟩

theorem witness_NoAccessIsGatedByTheFramePosition :
    (∀ e, Instr.readData ≠ .tick e) ∧ ∃ t, exec .readData busyBlock = .next t := ⟨by simp, exists_next (by decide)⟩

end Sys2Proof.Tests
end

namespace Sys2Proof.Proofs

open Sys2Proof Sys2Proof.Machine

/-- Settles O6: the transaction at the head of the stream and its successful decoding select the executing branch of
`step` (00_scope.md R3, 20_memory.md R62). -/
theorem stepRunsTheDecodedOperation : Obligations.StepRunsTheDecodedOperation := by
  intro s t rest i hpending hdecode
  simp only [step, hpending, hdecode]

end Sys2Proof.Proofs

namespace Sys2Proof.Proofs

open Sys2Proof Sys2Proof.Machine Sys2Proof.Safety

/-! ## Frames: what a completed operation and a step leave unchanged -/

/-- The stores of a DMA block reach the sprite memory and its pointer only (42_sprite_memory.md R144). -/
theorem oamStoreAll_frame (bs : List Byte) : ∀ s : State,
    oamStoreAll s bs = { s with oam := (oamStoreAll s bs).oam, oamAddr := (oamStoreAll s bs).oamAddr } := by
  induction bs with
  | nil => intro s; rfl
  | cons b bs ih => intro s; rw [oamStoreAll_cons]; exact ih (oamStore s b)

/-- A bus write stores in one of two memories, and not in both (20_memory.md R51). -/
theorem busWrite_frame {s u : State} {a : BusAddr} {b : Byte} (h : busWrite s a b = .ok u) :
    u = { s with ram := u.ram, palette := u.palette } ∧ (u.ram = s.ram ∨ u.palette = s.palette) := by
  rcases busWrite_ok h with ⟨-, rfl⟩ | ⟨-, -, o, -, rfl⟩ | ⟨-, -, i, -, rfl⟩
  · exact ⟨rfl, .inl rfl⟩
  · exact ⟨rfl, .inr rfl⟩
  · exact ⟨rfl, .inl rfl⟩

theorem bufferedRead_iff {a : BusAddr} : bufferedRead a = true ↔ a.toNat ≤ 0x2FFF := by simp [bufferedRead]

/-- Everything a completed READ_DATA can do: through the buffer below the palette, past it in the palette
(41_data_port.md R123, R125). -/
theorem execReadData_cases {s t : State} (h : execReadData s = .next t) : ∃ b, busRead s s.v = .ok b ∧
    ((s.v.toNat ≤ 0x2FFF ∧ t = { advanceV s with buf := b, out := Response.byte s.buf }) ∨
     (0x2FFF < s.v.toNat ∧ t = { advanceV s with out := Response.byte b })) := by
  obtain ⟨-, b, hb, ht⟩ := execReadData_next.1 h
  refine ⟨b, hb, ?_⟩
  by_cases hv : s.v.toNat ≤ 0x2FFF
  · rw [if_pos (bufferedRead_iff.2 hv)] at ht
    exact .inl ⟨hv, ht⟩
  · rw [if_neg (mt bufferedRead_iff.1 hv)] at ht
    exact .inr ⟨by omega, ht⟩

/-- Settles O17: one case per row of R35, each read off the operation's inversion lemma. -/
theorem footprintOfEveryOperation : Obligations.FootprintOfEveryOperation := by
  intro i s t h
  cases i
  case writeCtrl d => obtain ⟨-, rfl⟩ := execWriteCtrl_next.1 h; rfl
  case writeMask d => obtain ⟨-, rfl⟩ := execWriteMask_next.1 h; rfl
  case readStatus => obtain ⟨-, rfl⟩ := execReadStatus_next.1 h; rfl
  case writeOamAddr d => obtain ⟨-, rfl⟩ := execWriteOamAddr_next.1 h; rfl
  case writeOamData d => obtain ⟨-, rfl⟩ := execWriteOamData_next.1 h; rfl
  case readOamData => obtain ⟨-, rfl⟩ := execReadOamData_next.1 h; rfl
  case nmiAck => obtain ⟨-, rfl⟩ := execNmiAck_next.1 h; rfl
  case writeScroll d =>
    obtain ⟨-, rfl⟩ := execWriteScroll_next.1 h
    cases hw : s.wScroll <;> simp [storeScroll, hw]
  case writeAddr d =>
    obtain ⟨-, rfl⟩ := execWriteAddr_next.1 h
    cases hw : s.wAddr <;> simp [storeAddr, hw]
  case writeData d =>
    obtain ⟨-, u, hu, rfl⟩ := execWriteData_next.1 h
    obtain ⟨hframe, hone⟩ := busWrite_frame hu
    exact ⟨by rw [hframe]; rfl, hone⟩
  case readData =>
    obtain ⟨b, -, ⟨-, rfl⟩ | ⟨-, rfl⟩⟩ := execReadData_cases h <;> rfl
  case oamDma bs =>
    obtain ⟨-, -, rfl⟩ := execOamDma_next.1 h
    rw [oamStoreAll_frame]
  case tick e =>
    obtain ⟨-, ⟨-, rfl⟩ | ⟨-, -, rfl⟩ | ⟨-, -, rfl⟩ | ⟨-, -, -, rfl⟩⟩ := execTick_next h <;> rfl

/-- The components outside every row of R35: no operation writes them. -/
theorem exec_keeps_construction {i : Instr} {s t : State} (h : exec i s = .next t) :
    t.cfg = s.cfg ∧ t.mirroring = s.mirroring ∧ t.patternLen = s.patternLen ∧ t.pattern = s.pattern ∧
      t.halted = s.halted ∧ t.faultOut = s.faultOut := by
  have hframe := footprintOfEveryOperation i s t h
  cases i
  all_goals dsimp only at hframe
  case writeScroll | writeData => rw [hframe.1]; exact ⟨rfl, rfl, rfl, rfl, rfl, rfl⟩
  all_goals rw [hframe]; exact ⟨rfl, rfl, rfl, rfl, rfl, rfl⟩

/-- Settles O16: a step holds, constructs, or executes, and execution keeps the construction arguments. -/
theorem constructionArgumentsAreImmutable : Obligations.ConstructionArgumentsAreImmutable := by
  intro s t h
  rcases step_next h with ⟨-, rfl⟩ | ⟨bytes, m, rest, hp, rfl⟩ | ⟨tr, rest, i, -, -, hi⟩
  · exact ⟨rfl, fun _ => ⟨rfl, rfl, rfl⟩⟩
  · exact ⟨rfl, fun hno => absurd hp (hno bytes m rest)⟩
  · obtain ⟨hcfg, hmirroring, hlen, hpattern, -, -⟩ := exec_keeps_construction hi
    exact ⟨hcfg, fun _ => ⟨hmirroring, hlen, hpattern⟩⟩

/-- Settles O34: `buf` stands in the row of READ_DATA alone, and a READ_DATA past the name tables is not buffered. -/
theorem bufferChangesOnlyByBufferedRead : Obligations.BufferChangesOnlyByBufferedRead := by
  intro i s t h hbuf
  have hframe := footprintOfEveryOperation i s t h
  cases i
  case readData =>
    obtain ⟨b, -, ⟨hv, -⟩ | ⟨-, rfl⟩⟩ := execReadData_cases h
    · exact ⟨rfl, hv⟩
    · exact absurd rfl hbuf
  all_goals dsimp only at hframe
  case writeScroll | writeData => exact absurd (congrArg State.buf hframe.1) hbuf
  all_goals exact absurd (congrArg State.buf hframe) hbuf

/-! ## The response of a completed operation -/

@[simp] theorem response_none_dout : Response.none.dout = none := rfl
@[simp] theorem response_none_frameComplete : Response.none.frameComplete = none := rfl
@[simp] theorem response_none_diag : Response.none.diag = none := rfl
@[simp] theorem response_byte_dout (b : Byte) : (Response.byte b).dout = some b := rfl
@[simp] theorem response_byte_frameComplete (b : Byte) : (Response.byte b).frameComplete = none := rfl
@[simp] theorem response_byte_diag (b : Byte) : (Response.byte b).diag = none := rfl
@[simp] theorem response_frame_dout (c : Bool) : (Response.frame c).dout = none := rfl
@[simp] theorem response_frame_frameComplete (c : Bool) : (Response.frame c).frameComplete = some c := rfl
@[simp] theorem response_frame_diag (c : Bool) : (Response.frame c).diag = none := rfl
@[simp] theorem response_dropped_dout (a : BusAddr) (b : Byte) : (Response.dropped a b).dout = none := rfl
@[simp] theorem response_dropped_frameComplete (a : BusAddr) (b : Byte) :
    (Response.dropped a b).frameComplete = none := rfl
@[simp] theorem response_dropped_diag (a : BusAddr) (b : Byte) : (Response.dropped a b).diag = some ⟨a, b⟩ := rfl

/-- The event of a WRITE_DATA by the range of its address (60_exceptions.md R186). -/
theorem writeResponse_eq (s : State) (d : Byte) :
    writeResponse s d = if s.v.toNat ≤ 0x1FFF then Response.dropped s.v d else Response.none := by
  unfold writeResponse
  rcases busTarget_cases s.mirroring s.v with
    ⟨h, e⟩ | ⟨h, -, o, -, e⟩ | ⟨h, -, e⟩ | ⟨h, -, i, -, e⟩ | ⟨h, e⟩
  · simp only [e, if_pos h]
  all_goals simp only [e, if_neg (show ¬s.v.toNat ≤ 0x1FFF by omega)]

theorem execReadData_out {s t : State} (h : execReadData s = .next t) : ∃ b, t.out = Response.byte b := by
  obtain ⟨b, -, ⟨-, rfl⟩ | ⟨-, rfl⟩⟩ := execReadData_cases h <;> exact ⟨_, rfl⟩

theorem execTick_out {e : Byte} {s t : State} (h : execTick e s = .next t) : ∃ c, t.out = Response.frame c := by
  obtain ⟨-, ⟨-, rfl⟩ | ⟨-, -, rfl⟩ | ⟨-, -, rfl⟩ | ⟨-, -, -, rfl⟩⟩ := execTick_next h <;> exact ⟨_, rfl⟩

/-- Settles O18: each operation's response is one of the four forms of `Response`. -/
theorem responsesOfEveryOperation : Obligations.ResponsesOfEveryOperation := by
  intro i s t h
  cases i
  case writeCtrl d => obtain ⟨-, rfl⟩ := execWriteCtrl_next.1 h; simp
  case writeMask d => obtain ⟨-, rfl⟩ := execWriteMask_next.1 h; simp
  case readStatus => obtain ⟨-, rfl⟩ := execReadStatus_next.1 h; simp
  case writeOamAddr d => obtain ⟨-, rfl⟩ := execWriteOamAddr_next.1 h; simp
  case writeOamData d => obtain ⟨-, rfl⟩ := execWriteOamData_next.1 h; simp
  case readOamData => obtain ⟨-, rfl⟩ := execReadOamData_next.1 h; simp
  case writeScroll d => obtain ⟨-, rfl⟩ := execWriteScroll_next.1 h; simp
  case writeAddr d => obtain ⟨-, rfl⟩ := execWriteAddr_next.1 h; simp
  case oamDma bs => obtain ⟨-, -, rfl⟩ := execOamDma_next.1 h; simp
  case nmiAck => obtain ⟨-, rfl⟩ := execNmiAck_next.1 h; simp
  case readData => obtain ⟨b, hout⟩ := execReadData_out h; simp [hout]
  case tick e => obtain ⟨c, hout⟩ := execTick_out h; simp [hout]
  case writeData d =>
    obtain ⟨-, u, -, rfl⟩ := execWriteData_next.1 h
    by_cases hv : s.v.toNat ≤ 0x1FFF <;> simp [writeResponse_eq, hv]

/-! ## The status register -/

theorem getLsbD_eq_testBit (x : Byte) (j : Fin 8) : x.getLsbD j.val = testBit x j := rfl

/-- `status` stands in the rows of READ_STATUS and TICK alone (10_state.md R35). -/
theorem exec_keeps_status {i : Instr} {s t : State} (h : exec i s = .next t) (hread : i ≠ .readStatus)
    (htick : ∀ e, i ≠ .tick e) : t.status = s.status := by
  have hframe := footprintOfEveryOperation i s t h
  cases i
  all_goals dsimp only at hframe
  case readStatus => exact absurd rfl hread
  case tick e => exact absurd rfl (htick e)
  case writeScroll | writeData => rw [hframe.1]
  all_goals rw [hframe]

/-- Everything a completed operation can do to `status` (10_state.md R19). -/
theorem exec_status {i : Instr} {s t : State} (h : exec i s = .next t) :
    (i = .readStatus ∧ t.status = statusAfterRead s.cfg s.status) ∨
    (∃ e, i = .tick e ∧ 341 ≤ s.cycles.toNat + e.toNat ∧ s.scanline.toNat = 240 ∧
      t.status = statusAtVblank s.cfg s.status) ∨
    (∃ e, i = .tick e ∧ 341 ≤ s.cycles.toNat + e.toNat ∧ 261 ≤ s.scanline.toNat ∧
      t.status = statusAtWrap s.cfg s.status) ∨
    (i ≠ .readStatus ∧ t.status = s.status ∧
      ∀ e, i = .tick e → 341 ≤ s.cycles.toNat + e.toNat → s.scanline.toNat ≠ 240 ∧ s.scanline.toNat < 261) := by
  cases i
  case readStatus => obtain ⟨-, rfl⟩ := execReadStatus_next.1 h; exact .inl ⟨rfl, rfl⟩
  case tick e =>
    obtain ⟨-, ⟨hc, rfl⟩ | ⟨hc, hl, rfl⟩ | ⟨hc, hl, rfl⟩ | ⟨hc, hl, hl', rfl⟩⟩ := execTick_next h
    · refine .inr (.inr (.inr ⟨nofun, rfl, ?_⟩))
      rintro _ ⟨⟩ hc'
      omega
    · exact .inr (.inl ⟨e, rfl, hc, hl, rfl⟩)
    · exact .inr (.inr (.inl ⟨e, rfl, hc, hl, rfl⟩))
    · exact .inr (.inr (.inr ⟨nofun, rfl, fun _ _ _ => ⟨hl, hl'⟩⟩))
  all_goals exact .inr (.inr (.inr ⟨nofun, exec_keeps_status h nofun nofun, nofun⟩))

/-- Settles O50: the four cases of `exec_status`, each read bit by bit. -/
theorem statusBitsSetAndCleared : Obligations.StatusBitsSetAndCleared := by
  rintro i s t ⟨-, hne, -, -⟩ h
  simp only [getLsbD_eq_testBit]
  rcases exec_status h with ⟨rfl, hs⟩ | ⟨e, rfl, hc, hl, hs⟩ | ⟨e, rfl, hc, hl, hs⟩ | ⟨hi, hs, hno⟩
  · rw [hs, statusAfterRead]
    refine ⟨fun j hv hz => ?_, ?_, ?_⟩
    · simp [hv.symm]
    · simp [hne]
    · simp
  · rw [hs, statusAtVblank]
    refine ⟨fun j hv hz => ?_, ?_, ?_⟩
    · simp [hv.symm, hz.symm]
    · simp [hc, hl]
    · simp [hc, hl, hne.symm]
  · have hl' : s.scanline.toNat ≠ 240 := by omega
    rw [hs, statusAtWrap]
    refine ⟨fun j hv hz => ?_, ?_, ?_⟩
    · simp [hv.symm, hz.symm]
    · simp [hc, hl]
    · simp [hc, hl, hl']
  · rw [hs]
    refine ⟨fun j hv hz => rfl, ?_, ?_⟩
    · refine ⟨fun hz => ⟨hz, ?_⟩, And.left⟩
      rintro ⟨e, rfl, hc, hl⟩
      have := hno e rfl hc
      omega
    · refine ⟨fun hv => .inr ⟨hv, hi, ?_⟩, ?_⟩
      · rintro ⟨e, rfl, hc, hl⟩
        have := hno e rfl hc
        omega
      · rintro (⟨e, rfl, hc, hl⟩ | ⟨hv, -, -⟩)
        · exact absurd hl (hno e rfl hc).1
        · exact hv

/-- Settles O51: of the operations, those that write `status` clear SPRITE0_HIT and touch no other bit but VBLANK;
construction clears all eight. -/
theorem onlyVblankIsEverSet : Obligations.OnlyVblankIsEverSet := by
  intro s t hbits h hzero
  rcases step_next h with ⟨-, rfl⟩ | ⟨bytes, m, rest, -, rfl⟩ | ⟨tr, rest, i, -, -, hi⟩
  · exact hzero
  · intro j _
    exact BitVec.getLsbD_zero
  · obtain ⟨hother, hsprite, -⟩ := statusBitsSetAndCleared i { s with pending := rest } t hbits hi
    obtain ⟨hcfg, -⟩ := exec_keeps_construction hi
    intro j hj
    rw [hcfg] at hj
    by_cases hz : j = s.cfg.statusSprite0Bit
    · rw [Bool.eq_false_iff]
      intro hset
      have hwas : s.status.getLsbD j.val = true := hz ▸ (hsprite.1 (hz ▸ hset)).1
      exact absurd hwas (by rw [hzero j hj]; decide)
    · exact (hother j hj hz).trans (hzero j hj)

/-! ## Construction -/

theorem step_resetStrobe {s : State} {bytes : List Byte} {m : Mirroring} {rest : List DriverInput}
    (h : s.pending = .resetStrobe bytes m :: rest) : step s = .next (construct s.cfg bytes m rest) := by
  simp only [step, h]

/-- Settles O9: the step constructs, and the loaded PATTERN reads back byte by byte. -/
theorem resetStrobeConstructsAnew : Obligations.ResetStrobeConstructsAnew := by
  intro s bytes m rest h
  have hpattern : ∀ n, n < bytes.length → Memory.read (Memory.ofBytes 0 bytes) n = bytes.getD n 0 := fun n hn => by
    simpa using Memory.read_ofBytes bytes 0 n hn
  refine ⟨construct s.cfg bytes m rest, step_resetStrobe h, ?_⟩
  simpa [construct] using hpattern

/-- The default parameters meet their constraints (00_scope.md section 4). -/
theorem goodConfig_default : GoodConfig Config.default where
  bits := by decide
  ramInit := ⟨rfl, rfl⟩
  paletteInit := ⟨rfl, rfl⟩
  oamInit := ⟨rfl, rfl⟩

theorem vblankSet_zero (cfg : Config) : vblankSet cfg 0 = false := BitVec.getLsbD_zero

/-- Settles O10: a fresh block has empty memories, counters at zero and no flag set. -/
theorem invariantHoldsAtReset : Obligations.InvariantHoldsAtReset where
  cfg := goodConfig_default
  cycles := by decide
  scanline := by decide
  ram := ⟨rfl, rfl⟩
  palette := ⟨rfl, rfl⟩
  oam := ⟨rfl, rfl⟩
  pattern := ⟨rfl, rfl⟩
  paletteHoles := fun _ _ => rfl
  vblank := fun h => absurd h (by rw [State.reset, vblankSet_zero]; decide)
  nmi := nofun
  halt := rfl

/-- Construction meets the invariant for any arguments (70_reset_and_hazards.md R210). -/
theorem inv_construct {cfg : Config} (h : GoodConfig cfg) (bytes : List Byte) (m : Mirroring)
    (rest : List DriverInput) : Inv (construct cfg bytes m rest) where
  cfg := h
  cycles := by simp [construct]
  scanline := by simp [construct]
  ram := h.ramInit
  palette := h.paletteInit
  oam := h.oamInit
  pattern := ⟨Memory.ofBytes_wf bytes, by simpa [construct] using Memory.ofBytes_below bytes 0⟩
  paletteHoles := fun _ _ => rfl
  vblank := fun h => absurd h (by rw [construct, vblankSet_zero]; decide)
  nmi := nofun
  halt := rfl

/-! ## The invariant -/

/-- The four cells outside the image of `palidx` (20_memory.md R56). -/
theorem palidx_not_hole {a : BusAddr} {i : BitVec 5} (h : palidx a = some i) :
    i.toNat ∉ [0x10, 0x14, 0x18, 0x1C] := by
  simp only [List.mem_cons, List.not_mem_nil, or_false]
  unfold palidx at h
  split at h
  · cases h
  · split at h
    next hredirected => obtain rfl := Option.some.inj h; bv_omega
    next hdirect => obtain rfl := Option.some.inj h; bv_omega

theorem vblankSet_statusAfterRead (cfg : Config) (x : Byte) : vblankSet cfg (statusAfterRead cfg x) = false := by
  simp [vblankSet, statusAfterRead]

theorem vblankSet_statusAtWrap (cfg : Config) (x : Byte) : vblankSet cfg (statusAtWrap cfg x) = false := by
  simp [vblankSet, statusAtWrap]

/-- An interrupt is raised by WRITE_CTRL only in the vblank period (60_exceptions.md R188). -/
theorem inv_storeCtrl {s : State} (hs : Inv s) (d : Byte) : Inv (storeCtrl s d) :=
  { hs with
    nmi := fun h => by
      simp only [storeCtrl_nmi, retriggers, Bool.or_eq_true, Bool.and_eq_true] at h
      obtain hn | ⟨-, hv⟩ := h
      · exact hs.nmi hn
      · exact hs.vblank hv }

theorem inv_resync {s : State} (hs : Inv s) : Inv (resync s) :=
  { hs with vblank := fun h => by simp [vblankSet_statusAfterRead] at h }

theorem inv_storeScroll {s : State} (hs : Inv s) (d : Byte) : Inv (storeScroll s d) := by
  unfold storeScroll
  split <;> exact { hs with }

theorem inv_storeAddr {s : State} (hs : Inv s) (d : Byte) : Inv (storeAddr s d) := by
  unfold storeAddr
  split <;> exact { hs with }

theorem inv_oamStore {s : State} (hs : Inv s) (b : Byte) : Inv (oamStore s b) :=
  { hs with oam := ⟨Memory.write_wf _ b hs.oam.1, Memory.write_below b hs.oam.2 s.oamAddr.isLt⟩ }

theorem inv_oamStoreAll (bs : List Byte) : ∀ {s : State}, Inv s → Inv (oamStoreAll s bs) := by
  induction bs with
  | nil => exact id
  | cons b bs ih => exact fun hs => ih (inv_oamStore hs b)

/-- A bus write stays inside its memory, and in the palette away from the four unreachable cells. -/
theorem inv_busWrite {s u : State} {a : BusAddr} {b : Byte} (hs : Inv s) (h : busWrite s a b = .ok u) : Inv u := by
  rcases busWrite_ok h with ⟨-, rfl⟩ | ⟨-, -, o, -, rfl⟩ | ⟨-, -, i, hi, rfl⟩
  · exact hs
  · exact { hs with ram := ⟨Memory.write_wf _ b hs.ram.1, Memory.write_below b hs.ram.2 o.isLt⟩ }
  · exact { hs with
      palette := ⟨Memory.write_wf _ b hs.palette.1, Memory.write_below b hs.palette.2 i.isLt⟩
      paletteHoles := fun k hk => by
        have hne : k ≠ i.toNat := fun e => palidx_not_hole hi (e ▸ hk)
        exact (Memory.read_write_other b hne).trans (hs.paletteHoles k hk) }

theorem inv_withCycles {s : State} (hs : Inv s) {n : Nat} (hn : n < 341) :
    Inv { s with cycles := BitVec.ofNat 9 n } :=
  { hs with cycles := by simp only [BitVec.toNat_ofNat]; omega }

theorem inv_enterVblank {s : State} (hs : Inv s) : Inv (enterVblank s) :=
  { hs with
    scanline := by simp
    vblank := fun _ => by simp
    nmi := fun _ => by simp }

theorem inv_wrapFrame {s : State} (hs : Inv s) : Inv (wrapFrame s) :=
  { hs with
    scanline := by simp
    vblank := fun h => by simp [vblankSet_statusAtWrap] at h
    nmi := nofun }

theorem inv_nextScanline {s : State} (hs : Inv s) (hline : s.scanline.toNat < 261) :
    Inv { s with scanline := BitVec.ofNat 9 (s.scanline.toNat + 1) } := by
  have hnext : (BitVec.ofNat 9 (s.scanline.toNat + 1)).toNat = s.scanline.toNat + 1 := by
    simp only [BitVec.toNat_ofNat]; omega
  generalize BitVec.ofNat 9 (s.scanline.toNat + 1) = line at hnext
  exact { hs with
    scanline := by simp only [hnext]; omega
    vblank := fun h => by have := hs.vblank h; simp only [hnext]; omega
    nmi := fun h => by have := hs.nmi h; simp only [hnext]; omega }

/-- The counters stay below their bounds, and the flags are set and cleared at the two ends of the vblank period
(10_state.md R29, 43_timing.md R165). -/
theorem inv_execTick {e : Byte} {s t : State} (hs : Inv s) (h : execTick e s = .next t) : Inv t := by
  have he := e.isLt
  have hcyc := hs.cycles
  have hrolled : s.cycles.toNat + e.toNat - 341 < 341 := by omega
  obtain ⟨-, ⟨hc, rfl⟩ | ⟨-, -, rfl⟩ | ⟨-, -, rfl⟩ | ⟨-, -, hline, rfl⟩⟩ := execTick_next h
  · exact { inv_withCycles hs hc with }
  · exact { inv_withCycles (inv_enterVblank hs) hrolled with }
  · exact { inv_withCycles (inv_wrapFrame hs) hrolled with }
  · exact { inv_withCycles (inv_nextScanline hs hline) hrolled with }

/-- Every completed operation keeps the invariant. -/
theorem exec_keeps_inv {i : Instr} {s t : State} (hs : Inv s) (h : exec i s = .next t) : Inv t := by
  cases i
  case writeCtrl d => obtain ⟨-, rfl⟩ := execWriteCtrl_next.1 h; exact { inv_storeCtrl hs d with }
  case writeMask d => obtain ⟨-, rfl⟩ := execWriteMask_next.1 h; exact { hs with }
  case readStatus => obtain ⟨-, rfl⟩ := execReadStatus_next.1 h; exact { inv_resync hs with }
  case writeOamAddr d => obtain ⟨-, rfl⟩ := execWriteOamAddr_next.1 h; exact { hs with }
  case writeOamData d => obtain ⟨-, rfl⟩ := execWriteOamData_next.1 h; exact { inv_oamStore hs d with }
  case readOamData => obtain ⟨-, rfl⟩ := execReadOamData_next.1 h; exact { hs with }
  case writeScroll d => obtain ⟨-, rfl⟩ := execWriteScroll_next.1 h; exact { inv_storeScroll hs d with }
  case writeAddr d => obtain ⟨-, rfl⟩ := execWriteAddr_next.1 h; exact { inv_storeAddr hs d with }
  case writeData d => obtain ⟨-, u, hu, rfl⟩ := execWriteData_next.1 h; exact { inv_busWrite hs hu with }
  case readData => obtain ⟨b, -, ⟨-, rfl⟩ | ⟨-, rfl⟩⟩ := execReadData_cases h <;> exact { hs with }
  case oamDma bs => obtain ⟨-, -, rfl⟩ := execOamDma_next.1 h; exact { inv_oamStoreAll bs hs with }
  case tick e => exact inv_execTick hs h
  case nmiAck => obtain ⟨-, rfl⟩ := execNmiAck_next.1 h; exact { hs with nmi := nofun }

/-- Settles O11: holding keeps the state, construction meets the invariant anew, and each operation keeps it. -/
theorem everyStepKeepsTheInvariant : Obligations.EveryStepKeepsTheInvariant := by
  intro s t hs h
  rcases step_next h with ⟨-, rfl⟩ | ⟨bytes, m, rest, -, rfl⟩ | ⟨tr, rest, i, -, -, hi⟩
  · exact hs
  · exact inv_construct hs.cfg bytes m rest
  · exact exec_keeps_inv (s := { s with pending := rest }) { hs with } hi

/-! ## What no operation looks at -/

/-- A change that the routing and the two stores do not see passes through the bus write. -/
theorem busWrite_mapNext {g : State → State} {s : State} {a : BusAddr} (b : Byte)
    (hmirroring : (g s).mirroring = s.mirroring) (hram : ∀ o, ramWrite (g s) o b = g (ramWrite s o b))
    (hpal : ∀ i, palWrite (g s) i b = g (palWrite s i b)) :
    busWrite (g s) a b = (busWrite s a b).map g := by
  unfold busWrite
  rw [hmirroring]
  cases busTarget s.mirroring a with
  | pattern => rfl
  | ram o => exact congrArg Except.ok (hram o)
  | palette i => exact congrArg Except.ok (hpal i)
  | nothing f => rfl

/-- A change of the state that the output record does not see. -/
def PassesComplete (g : State → State) : Prop := ∀ u r, complete (g u) r = mapNext g (complete u r)

/-- A change that the bus write and the advance do not see passes through WRITE_DATA. -/
theorem execWriteData_mapNext {g : State → State} {d : Byte} {s : State} (hdone : PassesComplete g)
    (hlive : (g s).halted = s.halted) (hbus : busWrite (g s) (g s).v d = (busWrite s s.v d).map g)
    (hresp : writeResponse (g s) d = writeResponse s d)
    (hadv : ∀ u, busWrite s s.v d = .ok u → advanceV (g u) = g (advanceV u)) :
    execWriteData d (g s) = mapNext g (execWriteData d s) := by
  refine ifRunning_mapNext hlive ?_
  rw [hbus, hresp]
  cases hw : busWrite s s.v d with
  | error f => rfl
  | ok u =>
    dsimp only [Except.map]
    rw [hadv u hw, hdone]

/-- A change that the bus read, the advance and the refill do not see passes through READ_DATA. -/
theorem execReadData_mapNext {g : State → State} {s : State} (hdone : PassesComplete g)
    (hlive : (g s).halted = s.halted) (hv : (g s).v = s.v) (hbuf : (g s).buf = s.buf)
    (hbus : busRead (g s) s.v = busRead s s.v) (hadv : advanceV (g s) = g (advanceV s))
    (hfill : ∀ u b, { g u with buf := b } = g { u with buf := b }) :
    execReadData (g s) = mapNext g (execReadData s) := by
  refine ifRunning_mapNext hlive ?_
  rw [hv, hbuf, hbus, hadv]
  cases busRead s s.v with
  | error f => rfl
  | ok b =>
    dsimp only
    split
    · rw [hfill, hdone]
    · rw [hdone]

/-- A change that one store does not see passes through the DMA loop. -/
theorem oamStoreAll_mapNext {g : State → State} (hstore : ∀ s b, oamStore (g s) b = g (oamStore s b))
    (bs : List Byte) : ∀ s : State, oamStoreAll (g s) bs = g (oamStoreAll s bs) := by
  induction bs with
  | nil => exact fun _ => rfl
  | cons b bs ih => intro s; rw [oamStoreAll_cons, oamStoreAll_cons, hstore, ih]

theorem execOamDma_mapNext {g : State → State} {s : State} {bs : List Byte} (hdone : PassesComplete g)
    (hlive : (g s).halted = s.halted) (hstore : ∀ s b, oamStore (g s) b = g (oamStore s b)) :
    execOamDma bs (g s) = mapNext g (execOamDma bs s) := by
  refine ifRunning_mapNext hlive ?_
  split
  · rw [oamStoreAll_mapNext hstore, hdone]
  · rfl

/-- A change that the scanline counter and the two boundary events do not see passes through a roll. -/
theorem rollScanline_mapNext {g : State → State} {s : State} (hdone : PassesComplete g)
    (hscanline : (g s).scanline = s.scanline) (henter : enterVblank (g s) = g (enterVblank s))
    (hwrap : wrapFrame (g s) = g (wrapFrame s)) (hset : ∀ l, { g s with scanline := l } = g { s with scanline := l }) :
    rollScanline (g s) = mapNext g (rollScanline s) := by
  unfold rollScanline
  rw [hscanline, henter, hwrap]
  split
  · exact hdone _ _
  · split
    · exact hdone _ _
    · exact (congrArg (complete · (Response.frame false)) (hset _)).trans (hdone _ _)

/-- A change that the cycle counter and a roll do not see passes through TICK. -/
theorem execTick_mapNext {g : State → State} {s : State} {e : Byte} (hdone : PassesComplete g)
    (hlive : (g s).halted = s.halted) (hcycles : (g s).cycles = s.cycles)
    (hset : ∀ c, { g s with cycles := c } = g { s with cycles := c })
    (hroll : ∀ c, rollScanline (g { s with cycles := c }) = mapNext g (rollScanline { s with cycles := c })) :
    execTick e (g s) = mapNext g (execTick e s) := by
  refine ifRunning_mapNext hlive ?_
  rw [hcycles]
  split
  · exact (congrArg (complete · (Response.frame false)) (hset _)).trans (hdone _ _)
  · exact (congrArg rollScanline (hset _)).trans (hroll _)

/-- The mask and the two scroll bytes replaced. -/
def withMaskScroll (m x y : Byte) (s : State) : State := { s with mask := m, scrollX := x, scrollY := y }

/-- No operation but the two that write them sees the mask and the scroll bytes (10_state.md R12, R18). -/
theorem exec_withMaskScroll {i : Instr} (s : State) (m x y : Byte) (hmask : ∀ d, i ≠ .writeMask d)
    (hscroll : ∀ d, i ≠ .writeScroll d) :
    exec i (withMaskScroll m x y s) = mapNext (withMaskScroll m x y) (exec i s) := by
  have hdone : PassesComplete (withMaskScroll m x y) := fun _ _ => rfl
  cases i
  case writeMask d => exact absurd rfl (hmask d)
  case writeScroll d => exact absurd rfl (hscroll d)
  case writeData d =>
    exact execWriteData_mapNext hdone rfl (busWrite_mapNext d rfl (fun _ => rfl) (fun _ => rfl)) rfl (fun _ _ => rfl)
  case readData => exact execReadData_mapNext hdone rfl rfl rfl rfl rfl (fun _ _ => rfl)
  case oamDma bs => exact execOamDma_mapNext hdone rfl (fun _ _ => rfl)
  case tick e =>
    exact execTick_mapNext hdone rfl rfl (fun _ => rfl) fun _ => rollScanline_mapNext hdone rfl rfl rfl fun _ => rfl
  all_goals refine ifRunning_mapNext (g := withMaskScroll m x y) (s := s) rfl ?_
  case writeAddr d => cases hw : s.wAddr <;> simp [storeAddr, complete, withMaskScroll, hw]
  all_goals rfl

/-- Settles O55: replacing the three bytes before an operation that writes none of them is replacing them after. -/
theorem maskAndScrollAreOpaque : Obligations.MaskAndScrollAreOpaque := by
  intro i s m x y hmask hscroll
  have h := exec_withMaskScroll s m x y hmask hscroll
  unfold withMaskScroll at h
  rw [h]
  cases exec i s <;> rfl

/-- `ctrl` replaced. -/
def withCtrl (c : Byte) (s : State) : State := { s with ctrl := c }

/-- What `ctrl` holds after an operation that met `c` in it: WRITE_CTRL alone writes it (10_state.md R35). -/
def ctrlAfter : Instr → Byte → Byte
  | .writeCtrl d, _ => d
  | _, c => c

/-- Two control bytes with one increment bit advance `v` alike. -/
theorem advanceV_withCtrl {c : Byte} {s : State}
    (hinc : testBit c s.cfg.ctrlIncBit = testBit s.ctrl s.cfg.ctrlIncBit) :
    advanceV (withCtrl c s) = withCtrl c (advanceV s) := by
  simp [advanceV, withCtrl, advanced, addrStep, hinc]

/-- A bus write writes neither `ctrl` nor the parameters. -/
theorem busWrite_keeps_ctrl {s u : State} {a : BusAddr} {b : Byte} (h : busWrite s a b = .ok u) :
    u.cfg = s.cfg ∧ u.ctrl = s.ctrl := by
  rw [(busWrite_frame h).1]
  exact ⟨rfl, rfl⟩

/-- WRITE_CTRL compares the enable bit it finds with the one it stores, and replaces the rest unseen. -/
theorem storeCtrl_withCtrl {c : Byte} {s : State} (d : Byte)
    (hnmi : testBit c s.cfg.ctrlNmiBit = testBit s.ctrl s.cfg.ctrlNmiBit) :
    storeCtrl (withCtrl c s) d = storeCtrl s d := by
  simp only [storeCtrl, withCtrl, retriggers, nmiEnabled, hnmi]

/-- Entry to scanline 241 samples the enable bit of `ctrl` and no other. -/
theorem enterVblank_withCtrl {c : Byte} {s : State}
    (hnmi : testBit c s.cfg.ctrlNmiBit = testBit s.ctrl s.cfg.ctrlNmiBit) :
    enterVblank (withCtrl c s) = withCtrl c (enterVblank s) := by
  simp only [enterVblank, withCtrl, nmiEnabled, hnmi]

/-- Every operation sees of `ctrl` the enable bit and the increment bit only (10_state.md R15). -/
theorem exec_withCtrl (i : Instr) {s : State} {c : Byte}
    (hnmi : testBit c s.cfg.ctrlNmiBit = testBit s.ctrl s.cfg.ctrlNmiBit)
    (hinc : testBit c s.cfg.ctrlIncBit = testBit s.ctrl s.cfg.ctrlIncBit) :
    exec i (withCtrl c s) = mapNext (withCtrl (ctrlAfter i c)) (exec i s) := by
  have hdone : PassesComplete (withCtrl c) := fun _ _ => rfl
  cases i
  case writeCtrl d =>
    refine ifRunning_mapNext (g := withCtrl d) (s := s) rfl ?_
    rw [storeCtrl_withCtrl d hnmi]
    rfl
  case writeData d =>
    refine execWriteData_mapNext hdone rfl (busWrite_mapNext d rfl (fun _ => rfl) (fun _ => rfl)) rfl ?_
    intro u hu
    obtain ⟨hcfg, hctrl⟩ := busWrite_keeps_ctrl hu
    exact advanceV_withCtrl (by rw [hcfg, hctrl]; exact hinc)
  case readData => exact execReadData_mapNext hdone rfl rfl rfl rfl (advanceV_withCtrl hinc) (fun _ _ => rfl)
  case oamDma bs => exact execOamDma_mapNext hdone rfl (fun _ _ => rfl)
  case tick e =>
    refine execTick_mapNext hdone rfl rfl (fun _ => rfl) fun cyc => ?_
    have henter := enterVblank_withCtrl (s := { s with cycles := cyc }) hnmi
    exact rollScanline_mapNext hdone rfl henter rfl fun _ => rfl
  all_goals refine ifRunning_mapNext (g := withCtrl c) (s := s) rfl ?_
  case writeScroll d => cases hw : s.wScroll <;> simp [storeScroll, complete, withCtrl, hw]
  case writeAddr d => cases hw : s.wAddr <;> simp [storeAddr, complete, withCtrl, hw]
  all_goals rfl

/-- Settles O56: the enable bit and the increment bit are all that the operations read of `ctrl`. -/
theorem otherControlBitsHaveNoEffect : Obligations.OtherControlBitsHaveNoEffect := by
  intro i s c hnmi hinc
  have h := exec_withCtrl i hnmi hinc
  unfold withCtrl at h
  rw [h]
  cases exec i s
  case next t => cases i <;> rfl
  all_goals rfl

/-! ## The two write latches -/

/-- The two stores touch disjoint registers and each toggles its own latch (10_state.md R13, 90_conflicts.md C2). -/
theorem storeScroll_storeAddr_comm (s : State) (a b : Byte) (r : Response) :
    { storeScroll { storeAddr s a with out := r } b with out := r } =
      { storeAddr { storeScroll s b with out := r } a with out := r } := by
  cases hx : s.wScroll <;> cases ha : s.wAddr <;> simp [storeScroll, storeAddr, hx, ha]

theorem exec_writeAddr_live {s : State} (a : Byte) (h : s.halted = false) :
    exec (.writeAddr a) s = .next { storeAddr s a with out := Response.none } := execWriteAddr_next.2 ⟨h, rfl⟩

theorem exec_writeScroll_live {s : State} (b : Byte) (h : s.halted = false) :
    exec (.writeScroll b) s = .next { storeScroll s b with out := Response.none } := execWriteScroll_next.2 ⟨h, rfl⟩

theorem runOps_pair_next {i j : Instr} {s u t : State} (hi : exec i s = .next u) (hj : exec j u = .next t) :
    runOps [i, j] s = .next t := runOps_cons_next.2 ⟨u, hi, runOps_cons_next.2 ⟨t, hj, rfl⟩⟩

/-- Settles O26: on a live block the two stores commute; on a halted one both runs stop at their first operation. -/
theorem latchesAreIndependent : Obligations.LatchesAreIndependent := by
  intro a b s
  cases hs : s.halted
  · rw [runOps_pair_next (exec_writeAddr_live a hs) (exec_writeScroll_live b ((storeAddr_halted s a).trans hs)),
      runOps_pair_next (exec_writeScroll_live b hs) (exec_writeAddr_live a ((storeScroll_halted s b).trans hs)),
      storeScroll_storeAddr_comm]
  · simp only [runOps, exec, execWriteAddr, execWriteScroll, ifRunning_halted hs]

end Sys2Proof.Proofs

namespace Sys2Proof.Proofs

open Sys2Proof Sys2Proof.Machine Sys2Proof.Safety

/-! ## The address functions -/

theorem toNat_ofNat_of_lt {w n : Nat} (h : n < 2 ^ w) : (BitVec.ofNat w n).toNat = n := by
  rw [BitVec.toNat_ofNat, Nat.mod_eq_of_lt h]

/-- The bank map of R55: address bit 11 (horizontal) or 10 (vertical) selects the kilobyte, the low ten bits the byte. -/
def bankMap : Mirroring → Nat → Nat
  | .horizontal, n => n / 0x800 % 2 * 0x400 + n % 0x400
  | .vertical, n => n / 0x400 % 2 * 0x400 + n % 0x400

/-- The lower of the two name-table addresses of an offset, in each mode. -/
def firstPreimage : Mirroring → Nat → Nat
  | .horizontal, o => 0x2000 + o / 0x400 * 0x800 + o % 0x400
  | .vertical, o => 0x2000 + o

/-- The distance from an address to the other one with its offset. -/
def aliasDistance : Mirroring → Nat
  | .horizontal => 0x400
  | .vertical => 0x800

theorem bankMap_lt (m : Mirroring) (n : Nat) : bankMap m n < 0x800 := by
  cases m <;> simp only [bankMap] <;> omega

/-- The subtraction of R54 in the closed form of R55. -/
theorem sub_tableOffset (m : Mirroring) (n : Nat) :
    n % 0x1000 - tableOffset m (n % 0x1000 / 0x400) = bankMap m n := by
  cases m <;> simp only [tableOffset, bankMap] <;> split_ifs <;> omega

theorem mirror_eq_bankMap (m : Mirroring) {a : BusAddr} (ha : 0x2000 ≤ a.toNat) :
    mirror m a = some (BitVec.ofNat 11 (bankMap m a.toNat)) := by rw [mirror_eq m a ha, sub_tableOffset]

theorem mirror_eq_some_iff {m : Mirroring} {a : BusAddr} (ha : 0x2000 ≤ a.toNat) {o : BitVec 11} :
    mirror m a = some o ↔ bankMap m a.toNat = o.toNat := by
  rw [mirror_eq_bankMap m ha, Option.some_inj, BitVec.toNat_eq, toNat_ofNat_of_lt (bankMap_lt m a.toNat)]

/-- `mirror` takes the value R55 names. -/
theorem mirror_value (m : Mirroring) {a : BusAddr} (ha : 0x2000 ≤ a.toNat) :
    ∃ o, mirror m a = some o ∧ o.toNat = bankMap m a.toNat :=
  ⟨_, mirror_eq_bankMap m ha, toNat_ofNat_of_lt (bankMap_lt m a.toNat)⟩

/-- Addresses of one bank and byte have one offset. -/
theorem mirror_congr {m : Mirroring} {a b : BusAddr} (ha : 0x2000 ≤ a.toNat) (hb : 0x2000 ≤ b.toNat)
    (h : bankMap m a.toNat = bankMap m b.toNat) : mirror m a = mirror m b := by
  rw [mirror_eq_bankMap m ha, mirror_eq_bankMap m hb, h]

/-- Addresses that agree below bit 12 have one offset. -/
theorem mirror_of_mod_eq {m : Mirroring} {a b : BusAddr} (ha : 0x2000 ≤ a.toNat) (hb : 0x2000 ≤ b.toNat)
    (h : a.toNat % 0x1000 = b.toNat % 0x1000) : mirror m a = mirror m b := by
  rw [mirror_eq m a ha, mirror_eq m b hb, h]

/-- The fold of R54 from either side: bit 12 set or cleared. -/
theorem mirror_fold (m : Mirroring) {a : BusAddr} (ha : 0x2000 ≤ a.toNat) :
    mirror m (a ||| 0x1000#14) = mirror m a ∧ mirror m (a &&& ~~~0x1000#14) = mirror m a := by
  have hset := or_bit12_toNat a
  have hclear : (a &&& ~~~0x1000#14).toNat = _ := fold_toNat a
  exact ⟨mirror_of_mod_eq (by omega) ha (by omega), mirror_of_mod_eq (by omega) ha (by omega)⟩

/-- Horizontal mirroring does not look at bit 10 (R55). -/
theorem mirror_horizontal_alias {a : BusAddr} (ha : 0x2000 ≤ a.toNat) :
    mirror .horizontal (a ^^^ 0x0400#14) = mirror .horizontal a := by
  have hflip := xor_bit10_toNat a
  exact mirror_congr (by omega) ha (by simp only [bankMap]; omega)

/-- Vertical mirroring does not look at bit 11 (R55). -/
theorem mirror_vertical_alias {a : BusAddr} (ha : 0x2000 ≤ a.toNat) :
    mirror .vertical (a ^^^ 0x0800#14) = mirror .vertical a := by
  have hflip := xor_bit11_toNat a
  exact mirror_congr (by omega) ha (by simp only [bankMap]; omega)

/-- Both addresses of an offset are name-table addresses. -/
theorem firstPreimage_range (m : Mirroring) {o : Nat} (ho : o < 0x800) :
    0x2000 ≤ firstPreimage m o ∧ firstPreimage m o + aliasDistance m ≤ 0x2FFF ∧ 0 < aliasDistance m := by
  cases m <;> simp only [firstPreimage, aliasDistance] <;> omega

/-- Two name-table addresses, and no third, map to an offset. -/
theorem bankMap_eq_iff (m : Mirroring) {n o : Nat} (h₁ : 0x2000 ≤ n) (h₂ : n ≤ 0x2FFF) (ho : o < 0x800) :
    bankMap m n = o ↔ n = firstPreimage m o ∨ n = firstPreimage m o + aliasDistance m := by
  cases m <;> simp only [bankMap, firstPreimage, aliasDistance] <;> omega

/-- R55's last property: every offset is the image of exactly two name-table addresses. -/
theorem mirror_two_preimages (m : Mirroring) (o : BitVec 11) : ∃ a b : BusAddr, a ≠ b ∧
    0x2000 ≤ a.toNat ∧ a.toNat ≤ 0x2FFF ∧ 0x2000 ≤ b.toNat ∧ b.toNat ≤ 0x2FFF ∧
    ∀ c : BusAddr, 0x2000 ≤ c.toNat → c.toNat ≤ 0x2FFF → (mirror m c = some o ↔ c = a ∨ c = b) := by
  obtain ⟨hlow, hhigh, hpos⟩ := firstPreimage_range m o.isLt
  have ha : (BitVec.ofNat 14 (firstPreimage m o.toNat)).toNat = firstPreimage m o.toNat :=
    toNat_ofNat_of_lt (by omega)
  have hb : (BitVec.ofNat 14 (firstPreimage m o.toNat + aliasDistance m)).toNat =
      firstPreimage m o.toNat + aliasDistance m := toNat_ofNat_of_lt (by omega)
  refine ⟨BitVec.ofNat 14 (firstPreimage m o.toNat), BitVec.ofNat 14 (firstPreimage m o.toNat + aliasDistance m), ?_,
    by omega, by omega, by omega, by omega, fun c h₁ h₂ => ?_⟩
  · rw [ne_eq, BitVec.toNat_eq, ha, hb]
    omega
  · rw [mirror_eq_some_iff h₁, bankMap_eq_iff m h₁ h₂ o.isLt, BitVec.toNat_eq, BitVec.toNat_eq, ha, hb]

/-- Settles O27: all clauses are facts of `bankMap`, which `mirror` is at 0x2000 and above. -/
theorem mirrorIsTheBankMap : Obligations.MirrorIsTheBankMap :=
  ⟨mirror_below, fun _ ha => ⟨mirror_value .horizontal ha, mirror_value .vertical ha⟩, fun m _ ha => mirror_fold m ha,
    fun _ ha => ⟨mirror_horizontal_alias ha, mirror_vertical_alias ha⟩, mirror_two_preimages⟩

theorem palidx_outside {a : BusAddr} (h : a.toNat < 0x3F00 ∨ 0x3F1F < a.toNat) : palidx a = none := if_pos h

/-- The four redirected addresses of R56. -/
abbrev Redirected (a : BusAddr) : Prop :=
  a.toNat = 0x3F10 ∨ a.toNat = 0x3F14 ∨ a.toNat = 0x3F18 ∨ a.toNat = 0x3F1C

theorem redirected_iff {a : BusAddr} : a = 0x3F10 ∨ a = 0x3F14 ∨ a = 0x3F18 ∨ a = 0x3F1C ↔ Redirected a := by
  simp [BitVec.toNat_eq]

theorem palidx_redirected {a : BusAddr} (h : Redirected a) :
    ∃ i, palidx a = some i ∧ i.toNat = a.toNat - 0x3F10 := by
  refine ⟨BitVec.ofNat 5 (a.toNat - 0x10 - 0x3F00), ?_, ?_⟩
  · rw [palidx, if_neg (by omega), if_pos (redirected_iff.2 h)]
  · rw [toNat_ofNat_of_lt (by omega)]
    omega

theorem palidx_direct {a : BusAddr} (h₁ : 0x3F00 ≤ a.toNat) (h₂ : a.toNat ≤ 0x3F1F) (h : ¬Redirected a) :
    ∃ i, palidx a = some i ∧ i.toNat = a.toNat - 0x3F00 := by
  refine ⟨BitVec.ofNat 5 (a.toNat - 0x3F00), ?_, toNat_ofNat_of_lt (by omega)⟩
  rw [palidx, if_neg (by omega), if_neg (mt redirected_iff.1 h)]

/-- `palidx_not_hole` for the cell itself. -/
theorem palidx_not_mem_holes {a : BusAddr} {i : BitVec 5} (h : palidx a = some i) :
    i ∉ [0x10#5, 0x14, 0x18, 0x1C] := fun hi => palidx_not_hole h (List.mem_map_of_mem (f := BitVec.toNat) hi)

/-- Settles O28: outside the 32 addresses, redirected, direct. -/
theorem palidxRedirectsFourAddresses : Obligations.PalidxRedirectsFourAddresses := by
  refine fun a => ⟨palidx_outside, fun h₁ h₂ => ?_⟩
  by_cases h : Redirected a
  · obtain ⟨i, hi, hval⟩ := palidx_redirected h
    exact ⟨i, hi, fun _ => hval, fun hno => absurd h hno, palidx_not_mem_holes hi⟩
  · obtain ⟨i, hi, hval⟩ := palidx_direct h₁ h₂ h
    exact ⟨i, hi, fun hyes => absurd hyes h, fun _ => hval, palidx_not_mem_holes hi⟩

/-! ## The palette cells that no address reaches -/

/-- `palette` stands in the row of WRITE_DATA alone (10_state.md R35). -/
theorem exec_keeps_palette {i : Instr} {s t : State} (h : exec i s = .next t) (hwrite : ∀ d, i ≠ .writeData d) :
    t.palette = s.palette := by
  have hframe := footprintOfEveryOperation i s t h
  cases i
  all_goals dsimp only at hframe
  case writeData d => exact absurd rfl (hwrite d)
  case writeScroll => rw [hframe.1]
  all_goals rw [hframe]

/-- A bus write reaches no palette cell outside the image of `palidx`. -/
theorem busWrite_keeps_holes {s u : State} {a : BusAddr} {b : Byte} (h : busWrite s a b = .ok u) {k : Nat}
    (hk : k ∈ [0x10, 0x14, 0x18, 0x1C]) : Memory.read u.palette k = Memory.read s.palette k := by
  rcases busWrite_ok h with ⟨-, rfl⟩ | ⟨-, -, o, -, rfl⟩ | ⟨-, -, i, hi, rfl⟩
  · rfl
  · rfl
  · have hne : k ≠ i.toNat := fun e => palidx_not_hole hi (e ▸ hk)
    exact Memory.read_write_other b hne

/-- Settles O29: WRITE_DATA is the one operation that writes the palette, and it stores where `palidx` says. -/
theorem fourPaletteCellsNeverChange : Obligations.FourPaletteCellsNeverChange := by
  intro i s t h k hk
  by_cases hi : ∃ d, i = .writeData d
  · obtain ⟨d, rfl⟩ := hi
    obtain ⟨-, u, hu, rfl⟩ := execWriteData_next.1 h
    exact busWrite_keeps_holes hu hk
  · rw [exec_keeps_palette h (not_exists.1 hi)]

/-! ## Where the data port completes -/

theorem busWrite_completes_iff {s : State} {a : BusAddr} {b : Byte} :
    (∃ u, busWrite s a b = .ok u) ↔ WriteLegal a := by
  constructor
  · rintro ⟨u, hu⟩
    rcases busWrite_ok hu with ⟨h, -⟩ | ⟨-, h, -⟩ | ⟨h₁, h₂, -⟩ <;> omega
  · intro hlegal
    cases hw : busWrite s a b with
    | ok u => exact ⟨u, rfl⟩
    | error f => rcases busWrite_error hw with ⟨h₁, h₂, -⟩ | ⟨h, -⟩ <;> omega

theorem busRead_completes_iff {s : State} {a : BusAddr} : (∃ b, busRead s a = .ok b) ↔ ReadLegal s a := by
  constructor
  · rintro ⟨b, hb⟩
    rcases busRead_ok hb with ⟨h₁, h₂, -⟩ | ⟨h₁, h₂, -⟩ | ⟨h₁, h₂, -⟩ <;> omega
  · rintro ⟨hlegal, hpattern⟩
    cases hr : busRead s a with
    | ok b => exact ⟨b, rfl⟩
    | error f => rcases busRead_error hr with ⟨h₁, h₂, -⟩ | ⟨h₁, h₂, -⟩ | ⟨h, -⟩ <;> omega

/-- On a live block WRITE_DATA completes with its bus write. -/
theorem exec_writeData_completes_iff {d : Byte} {s : State} (hs : s.halted = false) :
    (∃ t, exec (.writeData d) s = .next t) ↔ ∃ u, busWrite s s.v d = .ok u := by
  constructor
  · rintro ⟨t, h⟩
    obtain ⟨-, u, hu, -⟩ := execWriteData_next.1 h
    exact ⟨u, hu⟩
  · rintro ⟨u, hu⟩
    exact ⟨_, execWriteData_next.2 ⟨hs, u, hu, rfl⟩⟩

/-- On a live block READ_DATA completes with its bus read. -/
theorem exec_readData_completes_iff {s : State} (hs : s.halted = false) :
    (∃ t, exec .readData s = .next t) ↔ ∃ b, busRead s s.v = .ok b := by
  constructor
  · rintro ⟨t, h⟩
    obtain ⟨-, b, hb, -⟩ := execReadData_next.1 h
    exact ⟨b, hb⟩
  · rintro ⟨b, hb⟩
    exact ⟨_, execReadData_next.2 ⟨hs, b, hb, rfl⟩⟩

/-- Settles O32: each operation completes with its bus access, and a bus access where the map has a target. -/
theorem dataPortCompletesExactlyWhereLegal : Obligations.DataPortCompletesExactlyWhereLegal := fun _ hs =>
  ⟨fun _ => (exec_writeData_completes_iff hs).trans busWrite_completes_iff,
    (exec_readData_completes_iff hs).trans busRead_completes_iff⟩

/-! ## The driver's stream -/

/-- An operation presented by the encoder is the one decoded (30_encoding.md R82, R83). -/
theorem decode_encode {i : Instr} (h : i.wellFormed = true) : decode (encode i) = .ok i := by
  cases i
  case writeCtrl d => exact Laws.RoundTrip.writeCtrl d h
  case writeMask d => exact Laws.RoundTrip.writeMask d h
  case readStatus => exact Laws.RoundTrip.readStatus h
  case writeOamAddr d => exact Laws.RoundTrip.writeOamAddr d h
  case writeOamData d => exact Laws.RoundTrip.writeOamData d h
  case readOamData => exact Laws.RoundTrip.readOamData h
  case writeScroll d => exact Laws.RoundTrip.writeScroll d h
  case writeAddr d => exact Laws.RoundTrip.writeAddr d h
  case writeData d => exact Laws.RoundTrip.writeData d h
  case readData => exact Laws.RoundTrip.readData h
  case oamDma bs => exact Laws.RoundTrip.oamDma bs h
  case tick e => exact Laws.RoundTrip.tick e h
  case nmiAck => exact Laws.RoundTrip.nmiAck h

/-- A step on an encoded operation is the operation on the block, with the rest of the stream left to present. -/
theorem step_encoded {i : Instr} {s : State} {rest : List DriverInput} (hi : i.wellFormed = true)
    (h : s.pending = .operation (encode i) :: rest) :
    step s = mapNext (fun t => { t with pending := rest }) (exec i s) := by
  rw [stepRunsTheDecodedOperation s _ rest i h (decode_encode hi), exec_withPending]

/-- Settles O8, by induction on the operations: neither side looks at what is still to be presented, so a step and an
operation end alike, in a next state or a stop. -/
theorem driverStreamRunsInOrder : Obligations.DriverStreamRunsInOrder := by
  intro is
  induction is with
  | nil =>
    intro s rest _ hp
    obtain rfl : s.pending = rest := hp
    exact core_run_zero s
  | cons i is ih =>
    intro s rest hwf hp
    obtain ⟨hi, his⟩ := List.forall_mem_cons.1 hwf
    have hstep := step_encoded hi hp
    have hexec := exec_withPending i s rest
    cases hout : exec i s with
    | next t =>
      rw [hout] at hstep hexec
      simp only [runOps, hexec, mapNext_next]
      exact (core_run_succ_next hstep).trans (ih _ rest his rfl)
    | fault f =>
      rw [hout] at hstep hexec
      simp only [runOps, hexec, mapNext_fault]
      exact core_run_succ_fault hstep
    | refused r =>
      rw [hout] at hstep hexec
      simp only [runOps, hexec, mapNext_refused]
      exact core_run_succ_refused hstep

end Sys2Proof.Proofs

namespace Sys2Proof.Proofs

open Sys2Proof Sys2Proof.Machine

/-! ## Table words: the layout gives back the code and the operand -/

/-- The code stands below the operand bytes, above the three bits that carry nothing (notes/assumptions/9.md). -/
theorem word_eq (i : Instr) : i.word = i.command.toNat + 256 * packBytes i.operand := by
  have hcode : (i.command.setWidth 8).toNat = i.command.toNat := by
    rw [BitVec.toNat_setWidth, Nat.mod_eq_of_lt (by omega)]
  rw [Instr.word, packBytes, hcode]

theorem word_lt (i : Instr) : i.word < 2 ^ i.wordBits := by
  have h := packBytes_lt (i.command.setWidth 8 :: i.operand)
  rwa [List.length_cons, Nat.add_comm] at h

/-- The word of an operation presents its code on `cmd` and its operand bytes on every operand port. -/
theorem ofWord_word (i : Instr) : Transaction.ofWord i.wordBits i.word =
    { cmd := i.command
      din := BitVec.ofNat 8 (packBytes i.operand)
      dmaBlock := unpackBytes oamSize (packBytes i.operand)
      elapsed := BitVec.ofNat 8 (packBytes i.operand) } := by
  have hcmd : BitVec.ofNat 5 i.word = i.command := by
    apply BitVec.eq_of_toNat_eq
    rw [BitVec.toNat_ofNat, word_eq]
    omega
  have hoperand : i.word / 256 = packBytes i.operand := by
    rw [word_eq]
    omega
  simp only [Transaction.ofWord, Nat.mod_eq_of_lt (word_lt i), hcmd, hoperand]

@[simp] theorem ofNat_packBytes_singleton (b : Byte) : BitVec.ofNat 8 (packBytes [b]) = b := by
  simp [packBytes]

/-- The operand comes back from the port the command uses: a single byte, or the whole DMA block. -/
theorem decode_ofWord_word {i : Instr} (h : i.wellFormed = true) :
    decode (Transaction.ofWord i.wordBits i.word) = .ok i := by
  rw [ofWord_word]
  cases i
  case oamDma block =>
    have hlen : block.length = oamSize := of_decide_eq_true h
    simp only [Instr.command, Instr.operand, ← hlen, unpackBytes_packBytes]
    exact decode_oamDma _ _ hlen
  all_goals simp [Instr.command, Instr.operand]

/-- Settles O1: the word presents the operation's own transaction, which decodes to it. -/
theorem tableWordRoundTrip : Obligations.TableWordRoundTrip := by
  intro i h
  simp only [decodeTableWord, decode_ofWord_word h]

/-- Settles O5: six words are those of their operations; the first leaves its operand out, and the two near misses hold
reserved codes (95_test_vectors.md vector 2.11). -/
theorem sampleWordsDecode : Obligations.SampleWordsDecode :=
  ⟨by decide, tableWordRoundTrip .readStatus rfl, tableWordRoundTrip .readOamData rfl,
    tableWordRoundTrip (.writeData 0x66) rfl, tableWordRoundTrip .readData rfl, tableWordRoundTrip (.tick 255) rfl,
    tableWordRoundTrip .nmiAck rfl, by decide, by decide⟩

/-! ## What the decoder accepts and what it refuses -/

theorem decode_ok {t : Transaction} {i : Instr} (h : decode t = .ok i) :
    decodeCommand t = some i ∧ i.wellFormed = true := by
  unfold decode at h
  split at h
  · cases h
  next j hj =>
    split_ifs at h with hwf
    cases h
    exact ⟨hj, hwf⟩

/-- The operand of an operation is what stands on the port 30_encoding.md R83 names for it. -/
def OperandOnPort (t : Transaction) : Instr → Prop
  | .writeCtrl d | .writeMask d | .writeOamAddr d | .writeOamData d | .writeScroll d | .writeAddr d
  | .writeData d => d = t.din
  | .oamDma block => block = t.dmaBlock
  | .tick e => e = t.elapsed
  | .readStatus | .readOamData | .readData | .nmiAck => True

theorem decodeWrite_some {t : Transaction} {sel : Nat} {i : Instr} (h : decodeWrite sel t.din = some i) :
    i.command.toNat = sel ∧ OperandOnPort t i := by
  unfold decodeWrite at h
  split at h <;> cases h <;> exact ⟨rfl, rfl⟩

theorem decodeRead_some {t : Transaction} {sel : Nat} {i : Instr} (h : decodeRead sel = some i) :
    i.command.toNat = 8 + sel ∧ OperandOnPort t i := by
  unfold decodeRead at h
  split at h <;> cases h <;> exact ⟨rfl, trivial⟩

theorem decodeSystem_some {t : Transaction} {fn : Nat} {i : Instr} (h : decodeSystem fn t = some i) :
    i.command.toNat = 16 + fn ∧ OperandOnPort t i := by
  unfold decodeSystem at h
  split at h <;> cases h
  · exact ⟨rfl, rfl⟩
  · exact ⟨rfl, rfl⟩
  · exact ⟨rfl, trivial⟩

/-- The fields of a command code, as formats R and S cut it (30_encoding.md R81). -/
theorem command_fields (c : BitVec 5) : cmdGrp c = c.toNat / 16 ∧ cmdRw c = c.toNat / 8 % 2 ∧
    cmdSel c = c.toNat % 8 ∧ cmdFn c = c.toNat % 16 := by
  have hc := c.isLt
  refine ⟨?_, ?_, ?_, ?_⟩ <;>
    simp only [cmdGrp, cmdRw, cmdSel, cmdFn, BitVec.extractLsb'_toNat, Nat.shiftRight_eq_div_pow] <;> omega

/-- Whichever of the three tables answers, its row and the fields that chose it spell the code on `cmd`. -/
theorem decodeCommand_some {t : Transaction} {i : Instr} (h : decodeCommand t = some i) :
    i.command = t.cmd ∧ OperandOnPort t i := by
  obtain ⟨hgrp, hrw, hsel, hfn⟩ := command_fields t.cmd
  have hc := t.cmd.isLt
  unfold decodeCommand at h
  rw [BitVec.toNat_eq]
  split_ifs at h with hformat hwrite
  · obtain ⟨hcode, hport⟩ := decodeWrite_some h
    exact ⟨by omega, hport⟩
  · obtain ⟨hcode, hport⟩ := decodeRead_some h
    exact ⟨by omega, hport⟩
  · obtain ⟨hcode, hport⟩ := decodeSystem_some h
    exact ⟨by omega, hport⟩

/-- Settles O2: an accepted operation is well formed, and it is the one the tables select. -/
theorem decodedOperationIsTheOnePresented : Obligations.DecodedOperationIsTheOnePresented := by
  intro t i h
  obtain ⟨hi, hwf⟩ := decode_ok h
  obtain ⟨hcode, hport⟩ := decodeCommand_some hi
  exact ⟨hwf, hcode, hport⟩

/-- The nineteen codes of 30_encoding.md R84. -/
def reservedCodes : List (BitVec 5) :=
  [0x02, 0x08, 0x09, 0x0B, 0x0D, 0x0E, 0x13, 0x14, 0x15, 0x16, 0x17, 0x18, 0x19, 0x1A, 0x1B, 0x1C, 0x1D, 0x1E, 0x1F]

theorem command_not_reserved (i : Instr) : i.command ∉ reservedCodes := by
  cases i <;> simp [Instr.command, reservedCodes]

/-- No operation has a reserved code, so none is selected by one. -/
theorem decode_reserved {t : Transaction} (h : t.cmd ∈ reservedCodes) :
    decode t = .error (.reservedCommand t.cmd) := by
  have hnone : decodeCommand t = none := by
    rw [Option.eq_none_iff_forall_ne_some]
    intro i hi
    exact command_not_reserved i ((decodeCommand_some hi).1 ▸ h)
  simp only [decode, hnone]

/-- The boundary: a rejected transaction is refused by the name of its rejection (60_exceptions.md R187). -/
theorem step_rejected {s : State} {t : Transaction} {rest : List DriverInput} {e : Reject}
    (hpending : s.pending = .operation t :: rest) (h : decode t = .error e) : step s = .refused (refusalOf e) := by
  simp only [step, hpending, h]

/-- Twelve of the thirteen codes take any operand there is. -/
theorem decode_code_without_block (t : Transaction)
    (h : t.cmd ∈ [0x00#5, 0x01, 0x0A, 0x03, 0x04, 0x0C, 0x05, 0x06, 0x07, 0x0F, 0x11, 0x12]) :
    ∃ i, decode t = .ok i := by
  obtain ⟨cmd, d, block, e⟩ := t
  simp only [List.mem_cons, List.not_mem_nil, or_false] at h
  rcases h with rfl | rfl | rfl | rfl | rfl | rfl | rfl | rfl | rfl | rfl | rfl | rfl
  · exact ⟨_, decode_writeCtrl d block e⟩
  · exact ⟨_, decode_writeMask d block e⟩
  · exact ⟨_, decode_readStatus d block e⟩
  · exact ⟨_, decode_writeOamAddr d block e⟩
  · exact ⟨_, decode_writeOamData d block e⟩
  · exact ⟨_, decode_readOamData d block e⟩
  · exact ⟨_, decode_writeScroll d block e⟩
  · exact ⟨_, decode_writeAddr d block e⟩
  · exact ⟨_, decode_writeData d block e⟩
  · exact ⟨_, decode_readData d block e⟩
  · exact ⟨_, decode_tick d block e⟩
  · exact ⟨_, decode_nmiAck d block e⟩

/-- Settles O3: a reserved code is no operation's; the others are the rows of R82. -/
theorem reservedCodesAreRefused : Obligations.ReservedCodesAreRefused := by
  refine ⟨fun t h => ⟨decode_reserved h, fun s rest hpending => ?_⟩, decode_code_without_block, ?_⟩
  · exact step_rejected hpending (decode_reserved h)
  · rintro ⟨_, d, block, e⟩ rfl hlen
    exact decode_oamDma d e hlen

end Sys2Proof.Proofs

namespace Sys2Proof.Proofs

open Sys2Proof Sys2Proof.Machine

/-! ## SET_ADDR: the address pair -/

/-- From `w_addr = 1` a pair of address writes sets both halves of `v` and ends where the latch began
(40_register_bank.md R106, R107). -/
theorem runOps_writeAddr_pair {s : State} (h l : Byte) (hs : s.halted = false) (hw : s.wAddr = true) :
    runOps [.writeAddr h, .writeAddr l] s =
      .next { s with v := withLowByte (withHighByte s.v h) l, out := Response.none } := by
  rw [runOps_pair_next (exec_writeAddr_live h hs) (exec_writeAddr_live l ((storeAddr_halted s h).trans hs))]
  simp [storeAddr, hw]

/-- The two halves of a 16-bit operand leave its low 14 bits in `v`, whatever `v` was. -/
theorem withBytes_eq_setWidth (v : BusAddr) (a : BitVec 16) :
    withLowByte (withHighByte v (a.extractLsb' 8 8)) (a.extractLsb' 0 8) = a.setWidth 14 := by
  apply BitVec.eq_of_toNat_eq
  rw [setAddr_toNat]
  simp only [BitVec.extractLsb'_toNat, BitVec.toNat_setWidth, Nat.shiftRight_eq_div_pow]
  omega

theorem runOps_setAddrOps {s : State} (a : BitVec 16) (hs : s.halted = false) (hw : s.wAddr = true) :
    runOps (setAddrOps a) s = .next { s with v := a.setWidth 14, out := Response.none } := by
  rw [setAddrOps, runOps_writeAddr_pair _ _ hs hw, withBytes_eq_setWidth]

/-- Settles O24: the pair sets `v` to the operand's low 14 bits, and nothing else but the output record. -/
theorem addressPairAssembles : Obligations.AddressPairAssembles := fun a _ hs hw =>
  ⟨_, runOps_setAddrOps a hs hw, BitVec.toNat_setWidth 14 a, hw, rfl⟩

/-! ## POKE and PEEK in the name tables -/

theorem mirror_some_low {m : Mirroring} {a : BusAddr} {o : BitVec 11} (ho : mirror m a = some o) :
    0x2000 ≤ a.toNat := by
  by_contra h
  rw [mirror_below m a (by omega)] at ho
  cases ho

theorem busTarget_of_mirror {m : Mirroring} {a : BusAddr} {o : BitVec 11} (ha : a.toNat ≤ 0x2FFF)
    (ho : mirror m a = some o) : busTarget m a = .ram o := by
  obtain ⟨o', ho', htarget⟩ := busTarget_ram (m := m) (mirror_some_low ho) ha
  rw [htarget, Option.some_inj.1 (ho'.symm.trans ho)]

/-- WRITE_DATA at a name-table address stores at its mirrored offset and advances (41_data_port.md R120). -/
theorem exec_writeData_ram {s : State} {o : BitVec 11} (b : Byte) (hs : s.halted = false) (ha : s.v.toNat ≤ 0x2FFF)
    (ho : mirror s.mirroring s.v = some o) :
    exec (.writeData b) s = .next { advanceV (ramWrite s o b) with out := Response.none } := by
  have htarget := busTarget_of_mirror ha ho
  refine execWriteData_next.2 ⟨hs, ramWrite s o b, ?_, ?_⟩
  · simp only [busWrite, htarget]
  · simp only [writeResponse, htarget]

/-- READ_DATA at a name-table address returns `buf` and refills it from the mirrored offset (41_data_port.md R123). -/
theorem exec_readData_ram {s : State} {o : BitVec 11} (hs : s.halted = false) (ha : s.v.toNat ≤ 0x2FFF)
    (ho : mirror s.mirroring s.v = some o) :
    exec .readData s = .next { advanceV s with buf := ramRead s o, out := Response.byte s.buf } := by
  refine execReadData_next.2 ⟨hs, ramRead s o, ?_, ?_⟩
  · simp only [busRead, busTarget_of_mirror ha ho]
  · rw [if_pos (bufferedRead_iff.2 ha)]

theorem advanced_toNat_small {cfg : Config} {ctrl : Byte} {v : BusAddr}
    (hstep : ctrl.getLsbD cfg.ctrlIncBit.val = false) (hv : v.toNat < 0x3FFF) :
    (advanced cfg ctrl v).toNat = v.toNat + 1 := by
  have hone : addrStep cfg ctrl = 1 := if_neg (by rw [testBit, hstep]; exact Bool.false_ne_true)
  rw [advanced_toNat, hone, Nat.mod_eq_of_lt (by omega)]

/-- POKE at a name-table address: the byte is in its cell of `ram`, and `v` is past the address. -/
theorem runOps_pokeOps_ram {s : State} {a : BitVec 16} {o : BitVec 11} (b : Byte) (hs : s.halted = false)
    (hw : s.wAddr = true) (ha : (a.setWidth 14 : BusAddr).toNat ≤ 0x2FFF)
    (ho : mirror s.mirroring (a.setWidth 14) = some o) :
    runOps (pokeOps a b) s =
      .next { ramWrite s o b with v := advanced s.cfg s.ctrl (a.setWidth 14), out := Response.none } :=
  runOps_append_next.2 ⟨_, runOps_setAddrOps a hs hw, runOps_cons_next.2 ⟨_, exec_writeData_ram b hs ha ho, rfl⟩⟩

/-- The second of two name-table reads returns the byte at the address of the first (41_data_port.md R124). -/
theorem runOps_readData_pair_ram {s : State} {o o' : BitVec 11} (hs : s.halted = false) (ha : s.v.toNat ≤ 0x2FFF)
    (ho : mirror s.mirroring s.v = some o) (ha' : (advanceV s).v.toNat ≤ 0x2FFF)
    (ho' : mirror s.mirroring (advanceV s).v = some o') :
    ∃ t, runOps [.readData, .readData] s = .next t ∧ t.out = Response.byte (ramRead s o) :=
  ⟨_, runOps_pair_next (exec_readData_ram hs ha ho) (exec_readData_ram hs ha' ho'), rfl⟩

/-- PEEK at a name-table address with step 1 returns its cell. Its second read is in the name tables too, which
0x2FFF excludes (70_reset_and_hazards.md R227). -/
theorem runOps_peekOps_ram {s : State} {a : BitVec 16} {o : BitVec 11} (hs : s.halted = false) (hw : s.wAddr = true)
    (hstep : s.ctrl.getLsbD s.cfg.ctrlIncBit.val = false) (ha : (a.setWidth 14 : BusAddr).toNat < 0x2FFF)
    (ho : mirror s.mirroring (a.setWidth 14) = some o) :
    ∃ t, runOps (peekOps a) s = .next t ∧ t.out = Response.byte (ramRead s o) := by
  have hbuffered : a.toNat % 0x4000 < 0x3F00 := by
    rw [BitVec.toNat_setWidth] at ha
    omega
  have hlow := mirror_some_low ho
  have hnext := advanced_toNat_small hstep (v := a.setWidth 14) (by omega)
  obtain ⟨o', ho', -⟩ := mirror_value s.mirroring (a := advanced s.cfg s.ctrl (a.setWidth 14)) (by omega)
  obtain ⟨t, hreads, hout⟩ := runOps_readData_pair_ram (s := { s with v := a.setWidth 14, out := Response.none })
    hs (Nat.le_of_lt ha) ho (hnext.trans_le ha) ho'
  refine ⟨t, ?_, hout⟩
  rw [peekOps, if_pos hbuffered]
  exact runOps_append_next.2 ⟨_, runOps_setAddrOps a hs hw, hreads⟩

/-- Settles O36: both addresses have one cell, which the poke fills and the peek reads. -/
theorem pokeThenPeekThroughAnAlias : Obligations.PokeThenPeekThroughAnAlias := by
  intro a a' x x' b s hs hw hstep hram hx hx' hlow hhigh hlow' hhigh' halias
  obtain rfl : x = a.setWidth 14 := BitVec.eq_of_toNat_eq (by rw [BitVec.toNat_setWidth]; omega)
  obtain rfl : x' = a'.setWidth 14 := BitVec.eq_of_toNat_eq (by rw [BitVec.toNat_setWidth]; omega)
  obtain ⟨o, ho, -⟩ := mirror_value s.mirroring hlow
  have hpoke := runOps_pokeOps_ram b hs hw hhigh ho
  obtain ⟨t, hpeek, hout⟩ := runOps_peekOps_ram
    (s := { ramWrite s o b with v := advanced s.cfg s.ctrl (a.setWidth 14), out := Response.none })
    hs hw hstep hhigh' (halias.symm.trans ho)
  refine ⟨t, runOps_append_next.2 ⟨_, hpoke, hpeek⟩, ?_⟩
  rw [hout, response_byte_dout]
  exact congrArg some (Memory.read_write_same o.toNat b hram)

/-! ## OAM_POKE and OAM_PEEK -/

theorem exec_writeOamAddr_live {s : State} (p : Byte) (h : s.halted = false) :
    exec (.writeOamAddr p) s = .next { s with oamAddr := p, out := Response.none } :=
  execWriteOamAddr_next.2 ⟨h, rfl⟩

theorem exec_writeOamData_live {s : State} (b : Byte) (h : s.halted = false) :
    exec (.writeOamData b) s = .next { oamStore s b with out := Response.none } := execWriteOamData_next.2 ⟨h, rfl⟩

theorem exec_readOamData_live {s : State} (h : s.halted = false) :
    exec .readOamData s = .next { s with out := Response.byte (oamRead s s.oamAddr) } :=
  execReadOamData_next.2 ⟨h, rfl⟩

theorem runOps_oamPokeOps {s : State} (p b : Byte) (hs : s.halted = false) : runOps (oamPokeOps p b) s =
    .next { oamWrite s p b with oamAddr := nextSprite p, out := Response.none } :=
  runOps_pair_next (exec_writeOamAddr_live p hs) (exec_writeOamData_live b hs)

theorem runOps_oamPeekOps {s : State} (p : Byte) (hs : s.halted = false) : runOps (oamPeekOps p) s =
    .next { s with oamAddr := p, out := Response.byte (oamRead s p) } :=
  runOps_pair_next (exec_writeOamAddr_live p hs) (exec_readOamData_live hs)

/-- Settles O43: the peek sets the pointer back to the cell the poke stored in. -/
theorem oamPokeThenPeek : Obligations.OamPokeThenPeek := by
  intro p b s hs hoam
  refine ⟨_, runOps_append_next.2 ⟨_, runOps_oamPokeOps p b hs, runOps_oamPeekOps p hs⟩, ?_, rfl⟩
  exact congrArg some (Memory.read_write_same p.toNat b hoam)

end Sys2Proof.Proofs

namespace Sys2Proof.Proofs

open Sys2Proof Sys2Proof.Machine

/-! ## The register bank: one operation at a time -/

theorem exec_writeCtrl_live {s : State} (d : Byte) (h : s.halted = false) :
    exec (.writeCtrl d) s = .next { storeCtrl s d with out := Response.none } := execWriteCtrl_next.2 ⟨h, rfl⟩

theorem exec_readStatus_live {s : State} (h : s.halted = false) :
    exec .readStatus s = .next { resync s with out := Response.byte s.status } := execReadStatus_next.2 ⟨h, rfl⟩

/-- The retrigger condition in the bits of the three bytes it compares (40_register_bank.md R101). -/
theorem retriggers_iff {cfg : Config} {old new status : Byte} : retriggers cfg old new status = true ↔
    old.getLsbD cfg.ctrlNmiBit.val = false ∧ new.getLsbD cfg.ctrlNmiBit.val = true ∧
      status.getLsbD cfg.statusVblankBit.val = true := by
  simp only [retriggers, nmiEnabled, vblankSet, testBit, Bool.and_eq_true, Bool.not_eq_true', and_assoc]

/-- Settles O19: `nmi` afterwards is the old flag or the retrigger condition. -/
theorem writeCtrlReplacesAndMayRaise : Obligations.WriteCtrlReplacesAndMayRaise := by
  intro d s
  refine ⟨decode_writeCtrl d, fun hs => ⟨_, exec_writeCtrl_live d hs, rfl, ?_, rfl⟩⟩
  rw [storeCtrl_nmi, Bool.or_eq_true, retriggers_iff]

/-- Settles O20: the meaning of WRITE_MASK is the replacement and an empty output record. -/
theorem writeMaskReplaces : Obligations.WriteMaskReplaces := fun d _ =>
  ⟨decode_writeMask d, fun hs => ⟨_, execWriteMask_next.2 ⟨hs, rfl⟩⟩⟩

/-- READ_STATUS clears one bit of `status` and keeps the other seven (40_register_bank.md R103). -/
theorem testBit_statusAfterRead (cfg : Config) (x : Byte) (j : Fin 8) :
    testBit (statusAfterRead cfg x) j = if j = cfg.statusVblankBit then false else testBit x j := by
  rw [statusAfterRead, testBit_clearBit]
  by_cases hj : j = cfg.statusVblankBit
  · simp [hj]
  · simp [hj, Ne.symm hj]

/-- Settles O21: the response carries the old byte, and `resync` is the three side effects. -/
theorem readStatusReturnsThenClears : Obligations.ReadStatusReturnsThenClears := fun s =>
  ⟨decode_readStatus, fun hs =>
    ⟨_, exec_readStatus_live hs, rfl, testBit_statusAfterRead s.cfg s.status, rfl, rfl, rfl⟩⟩

theorem storeScroll_x {s : State} (d : Byte) (h : s.wScroll = true) :
    storeScroll s d = { s with scrollX := d, wScroll := false } := if_pos h

theorem storeScroll_y {s : State} (d : Byte) (h : s.wScroll = false) :
    storeScroll s d = { s with scrollY := d, wScroll := true } := if_neg (by simp [h])

/-- Settles O22: one case per value of the scroll latch. -/
theorem writeScrollAlternates : Obligations.WriteScrollAlternates := by
  refine fun d s => ⟨decode_writeScroll d, fun hs => ⟨fun hx => ⟨Response.none, ?_⟩, fun hy => ⟨Response.none, ?_⟩⟩⟩
  · rw [exec_writeScroll_live d hs, storeScroll_x d hx]
  · rw [exec_writeScroll_live d hs, storeScroll_y d hy]

/-- Settles O23: the half of `v` the latch selects, in plain arithmetic; the frame is the operation's row of R35. -/
theorem writeAddrWritesOneHalf : Obligations.WriteAddrWritesOneHalf := by
  refine fun d s => ⟨decode_writeAddr d, fun hs => ?_⟩
  have hexec := exec_writeAddr_live d hs
  refine ⟨_, hexec, fun hhigh => ?_, fun hlow => ?_, footprintOfEveryOperation _ _ _ hexec⟩
  · simp [hhigh, withHighByte_toNat]
  · simp [hlow, withLowByte_toNat]

/-! ## Pairs after a status read, and an address pair before a data write -/

/-- From `w_scroll = 1` a pair of scroll writes sets x, then y, and ends where the latch began
(40_register_bank.md R104). -/
theorem runOps_writeScroll_pair {s : State} (x y : Byte) (hs : s.halted = false) (hw : s.wScroll = true) :
    runOps [.writeScroll x, .writeScroll y] s =
      .next { s with scrollX := x, scrollY := y, out := Response.none } := by
  rw [runOps_pair_next (exec_writeScroll_live x hs) (exec_writeScroll_live y ((storeScroll_halted s x).trans hs))]
  simp [storeScroll, hw]

/-- Settles O25: the status read leaves both latches at 1, where each pair starts. -/
theorem statusReadResynchronises : Obligations.StatusReadResynchronises := fun h l s hs =>
  ⟨⟨_, runOps_cons_next.2 ⟨_, exec_readStatus_live hs, runOps_writeAddr_pair h l hs rfl⟩, setAddr_toNat s.v h l, rfl⟩,
    ⟨_, runOps_cons_next.2 ⟨_, exec_readStatus_live hs, runOps_writeScroll_pair h l hs rfl⟩, rfl, rfl, rfl⟩⟩

theorem runOps_singleton (i : Instr) (s : State) : runOps [i] s = exec i s := by
  simp only [runOps]
  cases exec i s <;> rfl

/-- When the operations before it complete, the last operation decides how a run ends. -/
theorem runOps_append_of_next {is js : List Instr} {s u : State} (h : runOps is s = .next u) :
    runOps (is ++ js) s = runOps js u := by
  induction is generalizing s with
  | nil => cases h; rfl
  | cons i is ih =>
    obtain ⟨w, hi, his⟩ := runOps_cons_next.1 h
    simp only [List.cons_append, runOps, hi]
    exact ih his

/-- The two halves of an address pair give the 14-bit address, whatever `v` was. -/
theorem withBytes_eq_of_toNat {h l : Byte} {a : BusAddr} (ha : a.toNat = (h.toNat * 256 + l.toNat) % 0x4000)
    (v : BusAddr) : withLowByte (withHighByte v h) l = a := by
  apply BitVec.eq_of_toNat_eq
  rw [setAddr_toNat, ha]
  omega

/-- After an address pair a third operation runs with `v` at the assembled address (40_register_bank.md R107). -/
theorem runOps_writeAddr_pair_then {h l : Byte} {s : State} {a : BusAddr} (i : Instr) (hs : s.halted = false)
    (hw : s.wAddr = true) (ha : a.toNat = (h.toNat * 256 + l.toNat) % 0x4000) :
    runOps [.writeAddr h, .writeAddr l, i] s = exec i { s with v := a, out := Response.none } := by
  have hpair := runOps_writeAddr_pair h l hs hw
  rw [withBytes_eq_of_toNat ha] at hpair
  exact (runOps_append_of_next (js := [i]) hpair).trans (runOps_singleton i _)

/-- Neither the address register nor the output record has a part in a bus write. -/
theorem busWrite_withAddr (s : State) (x a : BusAddr) (r : Response) (b : Byte) :
    busWrite { s with v := x, out := r } a b = (busWrite s a b).map fun u => { u with v := x, out := r } :=
  busWrite_mapNext (g := fun u => { u with v := x, out := r }) b rfl (fun _ => rfl) fun _ => rfl

/-- Settles O33: the pair leaves `v` at the address, so the data write is the bus write there, which ends as it does
on the block before the pair. -/
theorem addressPairThenDataStores : Obligations.AddressPairThenDataStores := by
  intro h l b s a hs hw hram ha
  have hbus := busWrite_withAddr s a a Response.none b
  rw [runOps_writeAddr_pair_then (.writeData b) hs hw ha]
  refine ⟨fun u hu => ?_, fun f hf => ?_, fun hlow hhigh => ?_⟩
  · rw [hu] at hbus
    obtain ⟨hframe, -⟩ := busWrite_frame hu
    have hoam : u.oam = s.oam := by rw [hframe]
    have hpattern : u.pattern = s.pattern := by rw [hframe]
    exact ⟨_, execWriteData_next.2 ⟨hs, _, hbus, rfl⟩, rfl, rfl, hoam, hpattern⟩
  · rw [hf] at hbus
    exact execWriteData_fault.2 ⟨hs, hbus⟩
  · obtain ⟨o, ho, -⟩ := mirror_value s.mirroring hlow
    exact ⟨o, _, ho, exec_writeData_ram b hs hhigh ho, Memory.read_write_same o.toNat b hram,
      fun x hx => Memory.read_write_other b hx⟩

end Sys2Proof.Proofs

namespace Sys2Proof.Proofs

open Sys2Proof Sys2Proof.Machine

/-! ## The data port: WRITE_DATA and READ_DATA by the target of the address in `v` -/

/-- The advance of R121 in the bit of `ctrl` that chooses its step. -/
theorem advanced_toNat_by_bit (cfg : Config) (ctrl : Byte) (v : BusAddr) : (advanced cfg ctrl v).toNat =
    (v.toNat + if ctrl.getLsbD cfg.ctrlIncBit.val then 32 else 1) % 0x4000 := advanced_toNat cfg ctrl v

/-- WRITE_DATA at a pattern address stores nothing and reports the byte it drops (41_data_port.md R122). -/
theorem exec_writeData_pattern {s : State} (d : Byte) (hs : s.halted = false)
    (htarget : busTarget s.mirroring s.v = .pattern) :
    exec (.writeData d) s = .next { advanceV s with out := Response.dropped s.v d } := by
  refine execWriteData_next.2 ⟨hs, s, ?_, ?_⟩
  · simp only [busWrite, htarget]
  · simp only [writeResponse, htarget]

theorem exec_writeData_palette {s : State} {i : BitVec 5} (d : Byte) (hs : s.halted = false)
    (htarget : busTarget s.mirroring s.v = .palette i) :
    exec (.writeData d) s = .next { advanceV (palWrite s i d) with out := Response.none } := by
  refine execWriteData_next.2 ⟨hs, palWrite s i d, ?_, ?_⟩
  · simp only [busWrite, htarget]
  · simp only [writeResponse, htarget]

theorem exec_writeData_nothing {s : State} {f : Fault} (d : Byte) (hs : s.halted = false)
    (htarget : busTarget s.mirroring s.v = .nothing f) : exec (.writeData d) s = .fault f :=
  execWriteData_fault.2 ⟨hs, by simp only [busWrite, htarget]⟩

/-- Settles O30: one case per range of R51, each the operation on its bus target. -/
theorem writeDataByRange : Obligations.WriteDataByRange := by
  intro d s hs hram hpal
  have hadv := advanced_toNat_by_bit s.cfg s.ctrl s.v
  refine ⟨fun hv => ?_, fun hlow hhigh => ?_, fun hlow hhigh => ?_, fun hlow hhigh => ?_, fun hlow => ?_⟩
  · exact ⟨_, exec_writeData_pattern d hs (busTarget_pattern hv), rfl, rfl, hadv⟩
  · obtain ⟨o, ho, -⟩ := busTarget_ram hlow hhigh
    exact ⟨o, _, ho, exec_writeData_ram d hs hhigh ho, Memory.read_write_same o.toNat d hram,
      fun x hx => Memory.read_write_other d hx, rfl, hadv⟩
  · exact exec_writeData_nothing d hs (busTarget_window hlow hhigh)
  · obtain ⟨i, hi, htarget⟩ := busTarget_palette hlow hhigh
    exact ⟨i, _, hi, exec_writeData_palette d hs htarget, Memory.read_write_same i.toNat d hpal,
      fun x hx => Memory.read_write_other d hx, rfl, hadv⟩
  · exact exec_writeData_nothing d hs (busTarget_past_palette hlow)

/-- A pattern read below `PATTERN_LEN` returns `buf` and refills it from the pattern memory (41_data_port.md R123). -/
theorem exec_readData_pattern {s : State} (hs : s.halted = false) (hv : s.v.toNat ≤ 0x1FFF)
    (hlen : s.v.toNat < s.patternLen) : exec .readData s =
      .next { advanceV s with buf := Memory.read s.pattern s.v.toNat, out := Response.byte s.buf } := by
  refine execReadData_next.2 ⟨hs, Memory.read s.pattern s.v.toNat, ?_, ?_⟩
  · simp only [busRead, busTarget_pattern hv, patRead, if_pos hlen]
  · rw [if_pos (bufferedRead_iff.2 (by omega))]

/-- A pattern read at or past `PATTERN_LEN` finds no byte (20_memory.md R68). -/
theorem exec_readData_past_pattern {s : State} (hs : s.halted = false) (hv : s.v.toNat ≤ 0x1FFF)
    (hlen : s.patternLen ≤ s.v.toNat) : exec .readData s = .fault (.patternIndexRange s.v) := by
  refine execReadData_fault.2 ⟨hs, ?_⟩
  simp only [busRead, busTarget_pattern hv, patRead, if_neg (Nat.not_lt.2 hlen)]

/-- A palette read returns the live cell and leaves `buf` alone (41_data_port.md R125). -/
theorem exec_readData_palette {s : State} {i : BitVec 5} (hs : s.halted = false) (hv : 0x2FFF < s.v.toNat)
    (htarget : busTarget s.mirroring s.v = .palette i) :
    exec .readData s = .next { advanceV s with out := Response.byte (palRead s i) } := by
  refine execReadData_next.2 ⟨hs, palRead s i, ?_, ?_⟩
  · simp only [busRead, htarget]
  · rw [if_neg (mt bufferedRead_iff.1 (Nat.not_le.2 hv))]

theorem exec_readData_nothing {s : State} {f : Fault} (hs : s.halted = false)
    (htarget : busTarget s.mirroring s.v = .nothing f) : exec .readData s = .fault f :=
  execReadData_fault.2 ⟨hs, by simp only [busRead, htarget]⟩

/-- Settles O31: one case per range of R51, the pattern range cut at `PATTERN_LEN`. -/
theorem readDataByRange : Obligations.ReadDataByRange := by
  intro s hs
  have hadv := advanced_toNat_by_bit s.cfg s.ctrl s.v
  refine ⟨fun hv hlen => ?_, fun hv hlen => ?_, fun hlow hhigh => ?_, fun hlow hhigh => ?_, fun hlow hhigh => ?_,
    fun hlow => ?_⟩
  · exact ⟨_, exec_readData_pattern hs hv hlen, rfl, rfl, rfl, hadv⟩
  · exact exec_readData_past_pattern hs hv hlen
  · obtain ⟨o, ho, -⟩ := busTarget_ram hlow hhigh
    exact ⟨o, _, ho, exec_readData_ram hs hhigh ho, rfl, rfl, rfl, hadv⟩
  · exact exec_readData_nothing hs (busTarget_window hlow hhigh)
  · obtain ⟨i, hi, htarget⟩ := busTarget_palette hlow hhigh
    exact ⟨i, _, hi, exec_readData_palette hs (by omega) htarget, rfl, rfl, hadv⟩
  · exact exec_readData_nothing hs (busTarget_past_palette hlow)

/-! ## The read buffer between two reads -/

/-- A completed read below the palette returns `buf` and leaves in it the byte on the bus (41_data_port.md R123). -/
theorem exec_readData_buffered {s t : State} (hv : s.v.toNat ≤ 0x2FFF) (h : exec .readData s = .next t) :
    t.out = Response.byte s.buf ∧ busRead s s.v = .ok t.buf := by
  obtain ⟨b, hb, ⟨-, rfl⟩ | ⟨hpal, -⟩⟩ := execReadData_cases h
  · exact ⟨rfl, hb⟩
  · omega

theorem busRead_of_pattern {s : State} {a : BusAddr} {b : Byte} (h : busRead s a = .ok b) (ha : a.toNat ≤ 0x1FFF) :
    b = Memory.read s.pattern a.toNat := by
  obtain ⟨-, -, hb⟩ | ⟨hlow, -⟩ | ⟨hlow, -⟩ := busRead_ok h
  · exact hb
  all_goals omega

theorem busRead_of_mirror {s : State} {a : BusAddr} {o : BitVec 11} (ha : a.toNat ≤ 0x2FFF)
    (ho : mirror s.mirroring a = some o) : busRead s a = .ok (ramRead s o) := by
  simp only [busRead, busTarget_of_mirror ha ho]

theorem exec_keeps_buf {i : Instr} {s t : State} (h : exec i s = .next t) (hi : i ≠ .readData) : t.buf = s.buf := by
  by_contra hbuf
  exact hi (bufferChangesOnlyByBufferedRead i s t h hbuf).1

/-- Operations other than READ_DATA leave the read buffer alone, however many run (10_state.md R22). -/
theorem runOps_keeps_buf {is : List Instr} {s t : State} (h : runOps is s = .next t) (his : .readData ∉ is) :
    t.buf = s.buf := by
  induction is generalizing s with
  | nil => cases h; rfl
  | cons i is ih =>
    obtain ⟨u, hu, hrest⟩ := runOps_cons_next.1 h
    have hi : i ≠ .readData := (List.ne_of_not_mem_cons his).symm
    exact (ih hrest (List.not_mem_of_not_mem_cons his)).trans (exec_keeps_buf hu hi)

/-- Settles O35: the first read fills `buf` from the bus, the operations between keep it, the second returns it. -/
theorem bufferedReadLaw : Obligations.BufferedReadLaw := by
  intro s s₁ s₂ s₃ between hv h₁ hbetween hrun hv₂ h₃
  obtain ⟨hout₁, hfill⟩ := exec_readData_buffered hv h₁
  obtain ⟨hout₃, -⟩ := exec_readData_buffered hv₂ h₃
  have hsecond : s₃.out.dout = some s₁.buf := by rw [hout₃, response_byte_dout, runOps_keeps_buf hrun hbetween]
  refine ⟨congrArg Response.dout hout₁, fun hpattern => ?_, fun o ho => ?_⟩
  · rw [hsecond, busRead_of_pattern hfill hpattern]
  · have hcell : s₁.buf = ramRead s o := Except.ok.inj (hfill.symm.trans (busRead_of_mirror hv ho))
    rw [hsecond, hcell, ramRead]

end Sys2Proof.Proofs

namespace Sys2Proof.Proofs

open Sys2Proof Sys2Proof.Machine

/-! ## The stores of a DMA block, cell by cell -/

/-- The cell of the `i + 1`st store from `p` is the cell of the `i`th from the pointer after one store. -/
theorem nextSprite_add_mod (p : Byte) (i : Nat) : ((nextSprite p).toNat + i) % 256 = (p.toNat + (i + 1)) % 256 := by
  rw [nextSprite_toNat]
  omega

/-- A cell that no store of the block lands on keeps its byte. -/
theorem read_oamStoreAll_other {x : Nat} (bs : List Byte) : ∀ s : State,
    (∀ i, i < bs.length → x ≠ (s.oamAddr.toNat + i) % 256) →
      Memory.read (oamStoreAll s bs).oam x = Memory.read s.oam x := by
  induction bs with
  | nil => intro s _; rfl
  | cons b bs ih =>
    intro s hx
    have hp := s.oamAddr.isLt
    have hfirst : x ≠ s.oamAddr.toNat := by
      have := hx 0 (by simp)
      omega
    have hrest : ∀ i, i < bs.length → x ≠ ((oamStore s b).oamAddr.toNat + i) % 256 := by
      intro i hi
      rw [oamStore_oamAddr, nextSprite_add_mod]
      exact hx (i + 1) (by simpa using hi)
    rw [oamStoreAll_cons, ih _ hrest, oamStore_oam, Memory.read_write_other b hfirst]

/-- A block of at most 256 bytes is stored without overwriting itself: each byte is found at its own cell. -/
theorem read_oamStoreAll_elem (bs : List Byte) : ∀ (s : State) (i : Nat), Memory.wf s.oam = true →
    bs.length ≤ 256 → i < bs.length →
      Memory.read (oamStoreAll s bs).oam ((s.oamAddr.toNat + i) % 256) = bs.getD i 0 := by
  induction bs with
  | nil => intro s i _ _ hi; cases hi
  | cons b bs ih =>
    intro s i hwf hlen hi
    rw [List.length_cons] at hlen hi
    rw [oamStoreAll_cons]
    cases i with
    | zero =>
      have hp := s.oamAddr.isLt
      have hkept : ∀ j, j < bs.length → s.oamAddr.toNat ≠ ((oamStore s b).oamAddr.toNat + j) % 256 := by
        intro j hj
        rw [oamStore_oamAddr, nextSprite_add_mod]
        omega
      rw [Nat.add_zero, Nat.mod_eq_of_lt hp, read_oamStoreAll_other bs _ hkept, oamStore_oam,
        Memory.read_write_same _ b hwf, List.getD_cons_zero]
    | succ i =>
      rw [← nextSprite_add_mod, ← oamStore_oamAddr s b, List.getD_cons_succ]
      exact ih (oamStore s b) i (Memory.write_wf _ b hwf) (by omega) (by omega)

/-- 256 stores bring the pointer back to where it was (42_sprite_memory.md R144, corner case (a)). -/
theorem oamStoreAll_oamAddr_of_full {block : List Byte} (s : State) (h : block.length = 256) :
    (oamStoreAll s block).oamAddr = s.oamAddr := by
  apply BitVec.eq_of_toNat_eq
  have hp := s.oamAddr.isLt
  rw [oamStoreAll_oamAddr, h]
  omega

theorem exec_oamDma_live {block : List Byte} {s : State} (hs : s.halted = false) (h : block.length = 256) :
    exec (.oamDma block) s = .next { oamStoreAll s block with out := Response.none } := execOamDma_next.2 ⟨hs, h, rfl⟩

/-! ## The sprite memory operations -/

/-- Settles O38: the meaning of WRITE_OAM_ADDR is the new pointer and an empty output record. -/
theorem writeOamAddrSetsThePointer : Obligations.WriteOamAddrSetsThePointer := fun d _ =>
  ⟨decode_writeOamAddr d, fun hs => ⟨_, exec_writeOamAddr_live d hs⟩⟩

/-- Settles O39: one write of the sprite memory at the pointer, and the pointer's increment. -/
theorem writeOamDataStoresAndIncrements : Obligations.WriteOamDataStoresAndIncrements := fun d s =>
  ⟨decode_writeOamData d, fun hs hwf =>
    ⟨_, exec_writeOamData_live d hs, Memory.read_write_same _ d hwf, fun _ hx => Memory.read_write_other d hx,
      nextSprite_toNat s.oamAddr, rfl⟩⟩

/-- Settles O40: the read fills the output record and nothing else. -/
theorem readOamDataHasNoSideEffect : Obligations.ReadOamDataHasNoSideEffect := fun _ =>
  ⟨decode_readOamData, fun hs => ⟨_, exec_readOamData_live hs, rfl⟩⟩

/-- Settles O41: each byte at its own cell, no cell past the 256, the pointer back after a full turn. -/
theorem oamDmaWrapsAround : Obligations.OamDmaWrapsAround := by
  intro block s hs hlen hwf
  refine ⟨_, exec_oamDma_live hs hlen, fun i hi => ?_, fun x hx => ?_, ?_⟩
  · exact read_oamStoreAll_elem block s i hwf hlen.le (hi.trans_eq hlen.symm)
  · exact read_oamStoreAll_other block s fun i _ => by omega
  · have hframe := oamStoreAll_frame block s
    rw [oamStoreAll_oamAddr_of_full s hlen] at hframe
    exact congrArg (fun t : State => { t with out := Response.none }) hframe

/-- WRITE_OAM_DATA of the bytes in order ends in the state of the DMA loop; each leaves the output record empty, so
it is empty at the end if it was at the start. -/
theorem runOps_writeOamData (bs : List Byte) : ∀ s : State, s.halted = false →
    runOps (bs.map Instr.writeOamData) { s with out := Response.none } =
      .next { oamStoreAll s bs with out := Response.none } := by
  induction bs with
  | nil => intro s _; rfl
  | cons b bs ih =>
    intro s hs
    exact runOps_cons_next.2 ⟨_, exec_writeOamData_live b hs, ih (oamStore s b) hs⟩

/-- Settles O42: the first write empties the output record, and the others follow the DMA loop from there. -/
theorem oamDmaIsTwoHundredFiftySixWrites : Obligations.OamDmaIsTwoHundredFiftySixWrites := by
  intro block s hs hlen
  rw [exec_oamDma_live hs hlen]
  cases block with
  | nil => cases hlen
  | cons b bs =>
    exact (runOps_cons_next.2 ⟨_, exec_writeOamData_live b hs, runOps_writeOamData bs (oamStore s b) hs⟩).symm

end Sys2Proof.Proofs

namespace Sys2Proof.Proofs

open Sys2Proof Sys2Proof.Machine

/-! ## TICK and NMI_ACK, one call -/

/-- Entry to scanline 241 sets VBLANK, clears SPRITE0_HIT and keeps the other six bits (43_timing.md R160 step 4). -/
theorem testBit_statusAtVblank {cfg : Config} (hne : cfg.statusVblankBit ≠ cfg.statusSprite0Bit) (x : Byte)
    (j : Fin 8) : testBit (statusAtVblank cfg x) j =
      if j = cfg.statusVblankBit then true else if j = cfg.statusSprite0Bit then false else testBit x j := by
  rw [statusAtVblank, testBit_clearBit, testBit_setBit]
  by_cases hv : j = cfg.statusVblankBit
  · simp [hv, hne.symm]
  · by_cases hz : j = cfg.statusSprite0Bit
    · simp [hz, hne.symm]
    · simp [hv, hz, Ne.symm hv, Ne.symm hz]

/-- The frame wrap clears both named bits and keeps the other six (R160 step 5). -/
theorem testBit_statusAtWrap (cfg : Config) (x : Byte) (j : Fin 8) : testBit (statusAtWrap cfg x) j =
    if j = cfg.statusVblankBit ∨ j = cfg.statusSprite0Bit then false else testBit x j := by
  rw [statusAtWrap, testBit_clearBit, testBit_clearBit]
  by_cases hv : j = cfg.statusVblankBit
  · simp [hv]
  · by_cases hz : j = cfg.statusSprite0Bit
    · simp [hz]
    · simp [hv, hz, Ne.symm hv, Ne.symm hz]

theorem execTick_cycles_of_lt {e : Byte} {s t : State} (h : execTick e s = .next t)
    (hc : s.cycles.toNat + e.toNat < 341) : t.cycles.toNat = s.cycles.toNat + e.toNat := by
  obtain ⟨-, ⟨-, rfl⟩ | ⟨hroll, -⟩ | ⟨hroll, -⟩ | ⟨hroll, -⟩⟩ := execTick_next h
  · exact toNat_ofNat_of_lt (by omega)
  all_goals exact absurd hc hroll.not_gt

/-- The sum less one scanline fits in nine bits whatever the counter held. -/
theorem execTick_cycles_of_le {e : Byte} {s t : State} (h : execTick e s = .next t)
    (hc : 341 ≤ s.cycles.toNat + e.toNat) : t.cycles.toNat = s.cycles.toNat + e.toNat - 341 := by
  have hfits : s.cycles.toNat + e.toNat - 341 < 2 ^ 9 := by omega
  obtain ⟨-, ⟨hno, -⟩ | ⟨-, -, rfl⟩ | ⟨-, -, rfl⟩ | ⟨-, -, -, rfl⟩⟩ := execTick_next h
  · exact absurd hno hc.not_gt
  all_goals exact toNat_ofNat_of_lt hfits

/-- Settles O44: one case per boundary of `execTick_next`; the clauses of the other boundaries cannot meet it. -/
theorem tickByBoundary : Obligations.TickByBoundary := by
  refine fun e s => ⟨fun d block => decode_tick d block e, fun hs ⟨_, hne, _, _⟩ => ?_⟩
  obtain ⟨t, h⟩ := execTick_completes e hs
  obtain ⟨-, ⟨hc, rfl⟩ | ⟨hc, hl, rfl⟩ | ⟨hc, hl, rfl⟩ | ⟨hc, hl, hl', rfl⟩⟩ := execTick_next h
  · exact ⟨fun _ => ⟨_, h, execTick_cycles_of_lt h hc, rfl, rfl⟩, fun hroll => absurd hc hroll.not_gt⟩
  · refine ⟨fun hno => absurd hno hc.not_gt, fun _ => ⟨_, h, execTick_cycles_of_le h hc, fun _ => ?_, ?_, ?_⟩⟩
    · exact ⟨rfl, rfl, iff_of_eq (Bool.or_eq_true _ _), testBit_statusAtVblank hne s.status, rfl⟩
    · omega
    · exact fun h240 => absurd hl h240
  · refine ⟨fun hno => absurd hno hc.not_gt, fun _ => ⟨_, h, execTick_cycles_of_le h hc, ?_, fun _ => ?_, ?_⟩⟩
    · omega
    · exact ⟨rfl, rfl, rfl, testBit_statusAtWrap s.cfg s.status, rfl⟩
    · omega
  · refine ⟨fun hno => absurd hno hc.not_gt, fun _ => ⟨_, h, execTick_cycles_of_le h hc, ?_, ?_, fun _ _ => ?_⟩⟩
    · exact fun h240 => absurd h240 hl
    · omega
    · exact ⟨toNat_ofNat_of_lt (by omega), rfl, rfl⟩

/-- Settles O45: the meaning of NMI_ACK is the cleared flag and an empty output record. -/
theorem nmiAckClearsTheFlag : Obligations.NmiAckClearsTheFlag := fun _ =>
  ⟨decode_nmiAck, fun hs => ⟨_, execNmiAck_next.2 ⟨hs, rfl⟩⟩⟩

/-! ## The frame position under TICK

R163 in one equation: a TICK moves the position within the frame by its operand, less one frame exactly when it
returns true. A run of TICKs adds these up, and the two bounds make the equation a division with remainder. -/

/-- Cycles since the start of the frame (43_timing.md R163). -/
def framePosition (s : State) : Nat := s.scanline.toNat * 341 + s.cycles.toNat

/-- Both counters in their ranges (10_state.md R29). -/
structure LegalPosition (s : State) : Prop where
  cycles : s.cycles.toNat < 341
  scanline : s.scanline.toNat < 262

theorem LegalPosition.framePosition_lt {s : State} (h : LegalPosition s) : framePosition s < 89342 := by
  obtain ⟨hcycles, hscanline⟩ := h
  unfold framePosition
  omega

/-- The frames one call completes: 1 if TICK returned true. -/
def frameReturned (t : State) : Nat := if t.out.frameComplete = some true then 1 else 0

theorem frameReturned_le_one (t : State) : frameReturned t ≤ 1 := by
  unfold frameReturned
  split <;> omega

theorem frameReturned_eq_one_iff {t : State} : frameReturned t = 1 ↔ t.out.frameComplete = some true := by
  simp [frameReturned]

theorem framesCompleted_cons {e : Byte} {es : List Byte} {s t : State} (h : execTick e s = .next t) :
    framesCompleted (e :: es) s = frameReturned t + framesCompleted es t := by
  simp only [framesCompleted, h, frameReturned]

theorem execTick_framePosition {e : Byte} {s t : State} (hs : LegalPosition s) (h : execTick e s = .next t) :
    LegalPosition t ∧ framePosition t + 89342 * frameReturned t = framePosition s + e.toNat := by
  obtain ⟨hcyc, hline⟩ := hs
  unfold framePosition
  obtain ⟨-, ⟨hc, ht⟩ | ⟨hc, hl, ht⟩ | ⟨hc, hl, ht⟩ | ⟨hc, hl, hl', ht⟩⟩ := execTick_next h
  · have hcycles := execTick_cycles_of_lt h hc
    have hscanline : t.scanline = s.scanline := by rw [ht]
    have hframe : frameReturned t = 0 := by rw [ht]; rfl
    rw [hscanline]
    exact ⟨⟨by omega, by rwa [hscanline]⟩, by omega⟩
  all_goals have hcycles := execTick_cycles_of_le h hc
  · have hscanline : t.scanline.toNat = 241 := by rw [ht]; rfl
    have hframe : frameReturned t = 0 := by rw [ht]; rfl
    exact ⟨⟨by omega, by omega⟩, by omega⟩
  · have hscanline : t.scanline.toNat = 0 := by rw [ht]; rfl
    have hframe : frameReturned t = 1 := by rw [ht]; rfl
    exact ⟨⟨by omega, by omega⟩, by omega⟩
  · have hscanline : t.scanline.toNat = s.scanline.toNat + 1 := by rw [ht]; exact toNat_ofNat_of_lt (by omega)
    have hframe : frameReturned t = 0 := by rw [ht]; rfl
    exact ⟨⟨by omega, by omega⟩, by omega⟩

/-- By induction on the run: every TICK completes, and the positions and the returned frames add up. -/
theorem runOps_ticks_framePosition (es : List Byte) : ∀ s : State, s.halted = false → LegalPosition s →
    ∃ t, runOps (es.map Instr.tick) s = .next t ∧ LegalPosition t ∧
      framePosition t + 89342 * framesCompleted es s = framePosition s + (es.map BitVec.toNat).sum := by
  induction es with
  | nil => exact fun s _ hs => ⟨s, rfl, hs, rfl⟩
  | cons e es ih =>
    intro s hlive hs
    obtain ⟨u, hu⟩ := execTick_completes e hlive
    obtain ⟨hlegal, hmove⟩ := execTick_framePosition hs hu
    obtain ⟨-, -, -, -, hhalted, -⟩ := exec_keeps_construction (i := .tick e) hu
    obtain ⟨t, ht, htlegal, hrest⟩ := ih u (hhalted.trans hlive) hlegal
    refine ⟨t, runOps_cons_next.2 ⟨u, hu, ht⟩, htlegal, ?_⟩
    rw [framesCompleted_cons hu, List.map_cons, List.sum_cons]
    omega

/-- Settles O46: the equation of the run is a division of the sum by 89342, with the final position as remainder. -/
theorem tickRunClosedForm : Obligations.TickRunClosedForm := by
  intro es s hlive hcyc hline
  obtain ⟨t, ht, ⟨hcycles, hscanline⟩, hsum⟩ := runOps_ticks_framePosition es s hlive ⟨hcyc, hline⟩
  unfold framePosition at hsum
  rw [← hsum]
  refine ⟨t, ht, ?_, ?_, ?_⟩ <;> omega

/-- A legal TICK rolls out of scanline 240 exactly when it carries the position across 82181, the start of 241. -/
theorem rolls_into_vblank_iff {e : Byte} {s : State} (hs : LegalPosition s) :
    (341 ≤ s.cycles.toNat + e.toNat ∧ s.scanline.toNat = 240) ↔
      framePosition s < 82181 ∧ 82181 ≤ framePosition s + e.toNat := by
  obtain ⟨hcyc, -⟩ := hs
  unfold framePosition
  omega

/-- Settles O47: the frame event from the equation of one call, the vblank event from the R19 table (O50). -/
theorem tickEventsByPosition : Obligations.TickEventsByPosition := by
  intro e s t hcyc hline hbits h
  have hs : LegalPosition s := ⟨hcyc, hline⟩
  refine ⟨?_, fun hzero => ?_⟩
  · obtain ⟨hlegal, hmove⟩ := execTick_framePosition hs h
    have hlt := hlegal.framePosition_lt
    have hone := frameReturned_le_one t
    change _ ↔ 89342 ≤ framePosition s + e.toNat
    rw [← frameReturned_eq_one_iff]
    omega
  · obtain ⟨-, -, hvblank⟩ := statusBitsSetAndCleared (.tick e) s t hbits h
    rw [hvblank, hzero]
    simp only [Instr.tick.injEq, exists_eq_left', Bool.false_eq_true, false_and, or_false]
    exact rolls_into_vblank_iff hs

end Sys2Proof.Proofs

namespace Sys2Proof.Proofs

open Sys2Proof Sys2Proof.Machine

/-! ## Stops: the boundary, the halted block, the fault table -/

/-- Settles O7: an empty stream selects the holding branch of `step` (60_exceptions.md R197). -/
theorem nothingPresentedHoldsTheState : Obligations.NothingPresentedHoldsTheState := by
  intro s hpending
  simp only [step, hpending]

/-- The decoder rejects OAM_DMA with a block of another length, whatever stands on the other ports (decision D4). -/
theorem decode_oamDma_wrong_length {block : List Byte} (d e : Byte) (h : block.length ≠ 256) :
    decode ⟨0x10#5, d, block, e⟩ = .error (.dmaBlockSize block.length) := by
  simp [decode, decodeCommand, cmdGrp, cmdFn, decodeSystem, Instr.wellFormed, h]

/-- Settles O4: the decoder's rejection carries the length, and the boundary refuses by its name. -/
theorem dmaBlockOfAnotherSizeIsRefused : Obligations.DmaBlockOfAnotherSizeIsRefused := by
  rintro ⟨_, d, block, e⟩ s rest rfl hlen hpending
  exact step_rejected hpending (decode_oamDma_wrong_length d e hlen)

/-- Every meaning asks first whether the block is running (10_state.md R24). -/
theorem exec_halted (i : Instr) {s : State} (hs : s.halted = true) : exec i s = .refused .haltedBlock := by
  cases i <;> exact ifRunning_halted hs

/-- Settles O12: of the three things a step can do, holding keeps the block halted and executing needs a live one. -/
theorem haltedBlockOnlyReconstructs : Obligations.HaltedBlockOnlyReconstructs := by
  rintro f s ⟨hhalted, -⟩
  refine ⟨fun i => exec_halted i hhalted, fun t h hlive => ?_⟩
  rcases step_next h with ⟨-, rfl⟩ | ⟨bytes, m, rest, hp, -⟩ | ⟨tr, rest, i, -, -, hi⟩
  · exact absurd hhalted (by simp [hlive])
  · exact ⟨bytes, m, rest, hp⟩
  · have hrunning : s.halted = false := exec_next_live (s := { s with pending := rest }) hi
    exact absurd hhalted (by simp [hrunning])

/-- Settles O15: the meanings that contain no fault complete; a DMA block has its 256 bytes by well-formedness. -/
theorem elevenOperationsAreTotal : Obligations.ElevenOperationsAreTotal := by
  intro i s hwf hs hread hwrite
  cases i
  case writeCtrl d => exact ⟨_, exec_writeCtrl_live d hs⟩
  case writeMask d => exact ⟨_, execWriteMask_next.2 ⟨hs, rfl⟩⟩
  case readStatus => exact ⟨_, exec_readStatus_live hs⟩
  case writeOamAddr d => exact ⟨_, exec_writeOamAddr_live d hs⟩
  case writeOamData d => exact ⟨_, exec_writeOamData_live d hs⟩
  case readOamData => exact ⟨_, exec_readOamData_live hs⟩
  case writeScroll d => exact ⟨_, exec_writeScroll_live d hs⟩
  case writeAddr d => exact ⟨_, exec_writeAddr_live d hs⟩
  case writeData d => exact absurd rfl (hwrite d)
  case readData => exact absurd rfl hread
  case oamDma block => exact ⟨_, exec_oamDma_live hs (of_decide_eq_true hwf)⟩
  case tick e => exact execTick_completes e hs
  case nmiAck => exact ⟨_, execNmiAck_next.2 ⟨hs, rfl⟩⟩

/-- A DMA block of another length is refused and no fault (60_exceptions.md R187). -/
theorem execOamDma_ne_fault {block : List Byte} {s : State} {f : Fault} : execOamDma block s ≠ .fault f := by
  intro h
  obtain ⟨-, h⟩ := ifRunning_fault.1 h
  split at h
  · exact complete_ne_fault h
  · cases h

/-- A fault is the error of the bus access that a data-port operation makes at `v` (60_exceptions.md R180). -/
theorem exec_fault {i : Instr} {s : State} {f : Fault} (h : exec i s = .fault f) : s.halted = false ∧
    ((∃ d, i = .writeData d ∧ busWrite s s.v d = .error f) ∨ (i = .readData ∧ busRead s s.v = .error f)) := by
  cases i
  case writeData d =>
    obtain ⟨hs, hbus⟩ := execWriteData_fault.1 h
    exact ⟨hs, .inl ⟨d, rfl, hbus⟩⟩
  case readData =>
    obtain ⟨hs, hbus⟩ := execReadData_fault.1 h
    exact ⟨hs, .inr ⟨rfl, hbus⟩⟩
  case oamDma block => exact absurd h execOamDma_ne_fault
  case tick e =>
    obtain ⟨hs, -⟩ := ifRunning_fault.1 h
    obtain ⟨t, ht⟩ := execTick_completes e hs
    cases ht.symm.trans h
  all_goals exact absurd (ifRunning_fault.1 h).2 complete_ne_fault

/-- A bus address with no target stops both operations of the data port. -/
theorem exec_dataPort_nothing {i : Instr} {s : State} {f : Fault} (hs : s.halted = false)
    (hi : i = .readData ∨ ∃ d, i = .writeData d) (htarget : busTarget s.mirroring s.v = .nothing f) :
    exec i s = .fault f := by
  obtain rfl | ⟨d, rfl⟩ := hi
  · exact exec_readData_nothing hs htarget
  · exact exec_writeData_nothing d hs htarget

/-- A fault is its row of the table and the address it carries. -/
theorem fault_eq_of_code_address {f g : Fault} (hcode : f.code = g.code) (haddr : f.address = g.address) : f = g := by
  cases f <;> cases g <;> cases hcode <;> exact congrArg _ haddr

/-- Settles O13: each error of a bus access is its row of the table; back, the code and the address of a row name the
fault, which the bus target there raises. -/
theorem faultsComeFromTheDataPort : Obligations.FaultsComeFromTheDataPort := by
  intro i s f
  have hv := s.v.isLt
  constructor
  · intro h
    obtain ⟨hs, ⟨d, rfl, hbus⟩ | ⟨rfl, hbus⟩⟩ := exec_fault h
    · rcases busWrite_error hbus with ⟨hlow, hhigh, rfl⟩ | ⟨hlow, rfl⟩
      · exact ⟨hs, rfl, .inl ⟨rfl, .inr ⟨d, rfl⟩, hlow, hhigh⟩⟩
      · exact ⟨hs, rfl, .inr (.inr (.inl ⟨rfl, .inr ⟨d, rfl⟩, hlow, by omega⟩))⟩
    · rcases busRead_error hbus with ⟨hhigh, hlen, rfl⟩ | ⟨hlow, hhigh, rfl⟩ | ⟨hlow, rfl⟩
      · exact ⟨hs, rfl, .inr (.inr (.inr ⟨rfl, rfl, hhigh, hlen⟩))⟩
      · exact ⟨hs, rfl, .inl ⟨rfl, .inl rfl, hlow, hhigh⟩⟩
      · exact ⟨hs, rfl, .inr (.inr (.inl ⟨rfl, .inl rfl, hlow, by omega⟩))⟩
  · rintro ⟨hs, haddr, ⟨hcode, hi, hlow, hhigh⟩ | ⟨-, -, hpast⟩ | ⟨hcode, hi, hlow, -⟩ | ⟨hcode, rfl, hhigh, hlen⟩⟩
    · obtain rfl : f = .mirrorWindowAccess s.v := fault_eq_of_code_address hcode haddr
      exact exec_dataPort_nothing hs hi (busTarget_window hlow hhigh)
    · omega
    · obtain rfl : f = .paletteIndexRange s.v := fault_eq_of_code_address hcode haddr
      exact exec_dataPort_nothing hs hi (busTarget_past_palette hlow)
    · obtain rfl : f = .patternIndexRange s.v := fault_eq_of_code_address hcode haddr
      exact exec_readData_past_pattern hs hhigh hlen

/-- Settles O14: neither bus access raises `AddressRange`, because a 14-bit address has a row of its own or a target
(60_exceptions.md R182). -/
theorem addressRangeIsNeverRaised : Obligations.AddressRangeIsNeverRaised := by
  intro i s a h
  obtain ⟨-, ⟨d, -, hbus⟩ | ⟨-, hbus⟩⟩ := exec_fault h
  · obtain ⟨-, -, hf⟩ | ⟨-, hf⟩ := busWrite_error hbus <;> cases hf
  · obtain ⟨-, -, hf⟩ | ⟨-, -, hf⟩ | ⟨-, hf⟩ := busRead_error hbus <;> cases hf

end Sys2Proof.Proofs

namespace Sys2Proof.Proofs

open Sys2Proof Sys2Proof.Machine

/-! ## The interrupt flag -/

/-- `nmi` stands in the rows of WRITE_CTRL, TICK and NMI_ACK alone (10_state.md R35). -/
theorem exec_keeps_nmi {i : Instr} {s t : State} (h : exec i s = .next t) (hctrl : ∀ d, i ≠ .writeCtrl d)
    (htick : ∀ e, i ≠ .tick e) (hack : i ≠ .nmiAck) : t.nmi = s.nmi := by
  have hframe := footprintOfEveryOperation i s t h
  cases i
  all_goals dsimp only at hframe
  case writeCtrl d => exact absurd rfl (hctrl d)
  case tick e => exact absurd rfl (htick e)
  case nmiAck => exact absurd rfl hack
  case writeScroll | writeData => rw [hframe.1]
  all_goals rw [hframe]

/-- Everything a completed operation can do to `nmi`: the two places that can raise it, the two that clear it, and the
rest (60_exceptions.md R188). -/
theorem exec_nmi {i : Instr} {s t : State} (h : exec i s = .next t) :
    (∃ e, i = .tick e ∧ 341 ≤ s.cycles.toNat + e.toNat ∧ s.scanline.toNat = 240 ∧
      t.nmi = (s.nmi || nmiEnabled s.cfg s.ctrl)) ∨
    (∃ d, i = .writeCtrl d ∧ t.nmi = (s.nmi || retriggers s.cfg s.ctrl d s.status)) ∨
    (∃ e, i = .tick e ∧ 341 ≤ s.cycles.toNat + e.toNat ∧ 261 ≤ s.scanline.toNat ∧ t.nmi = false) ∨
    (i = .nmiAck ∧ t.nmi = false) ∨
    (t.nmi = s.nmi ∧ (∀ d, i ≠ .writeCtrl d) ∧ i ≠ .nmiAck ∧
      ∀ e, i = .tick e → 341 ≤ s.cycles.toNat + e.toNat → s.scanline.toNat ≠ 240 ∧ s.scanline.toNat < 261) := by
  cases i
  case writeCtrl d => obtain ⟨-, rfl⟩ := execWriteCtrl_next.1 h; exact .inr (.inl ⟨d, rfl, rfl⟩)
  case nmiAck => obtain ⟨-, rfl⟩ := execNmiAck_next.1 h; exact .inr (.inr (.inr (.inl ⟨rfl, rfl⟩)))
  case tick e =>
    obtain ⟨-, ⟨hc, rfl⟩ | ⟨hc, hl, rfl⟩ | ⟨hc, hl, rfl⟩ | ⟨-, hl, hl', rfl⟩⟩ := execTick_next h
    · refine .inr (.inr (.inr (.inr ⟨rfl, nofun, nofun, ?_⟩)))
      rintro _ ⟨⟩ hroll
      exact absurd hc hroll.not_gt
    · exact .inl ⟨e, rfl, hc, hl, rfl⟩
    · exact .inr (.inr (.inl ⟨e, rfl, hc, hl, rfl⟩))
    · exact .inr (.inr (.inr (.inr ⟨rfl, nofun, nofun, fun _ _ _ => ⟨hl, hl'⟩⟩)))
  all_goals exact .inr (.inr (.inr (.inr ⟨exec_keeps_nmi h nofun nofun nofun, nofun, nofun, nofun⟩)))

/-- Settles O49: the five cases of `exec_nmi`, each from either value of the flag. -/
theorem interruptRaisedAndClearedInTwoPlaces : Obligations.InterruptRaisedAndClearedInTwoPlaces := by
  intro i s t h
  rcases exec_nmi h with ⟨e, rfl, hc, hl, ht⟩ | ⟨d, rfl, ht⟩ | ⟨e, rfl, hc, hl, ht⟩ | ⟨rfl, ht⟩ | ⟨ht, hctrl, hack, hno⟩
  · refine ⟨fun hs => ?_, fun hs => ?_⟩
    · simp [ht, hs, hc, hl, nmiEnabled, testBit]
    · simp [ht, hs, hl]
  · refine ⟨fun hs => ?_, fun hs => ?_⟩
    · simp [ht, hs, retriggers_iff]
    · simp [ht, hs]
  · have hl' : s.scanline.toNat ≠ 240 := by omega
    refine ⟨fun hs => ?_, fun hs => ?_⟩
    · simp [ht, hl']
    · simp [ht, hc, hl]
  · exact ⟨fun hs => by simp [ht], fun hs => by simp [ht]⟩
  · rw [ht]
    refine ⟨fun hs => ?_, fun hs => ?_⟩
    · rw [hs]
      refine ⟨nofun, ?_⟩
      rintro (⟨e, rfl, hc, hl, -⟩ | ⟨d, rfl, -⟩)
      · exact absurd hl (hno e rfl hc).1
      · exact absurd rfl (hctrl d)
    · rw [hs]
      refine ⟨nofun, ?_⟩
      rintro (⟨e, rfl, hc, hl⟩ | rfl)
      · exact absurd hl (hno e rfl hc).2.not_ge
      · exact absurd rfl hack

/-! ## WRITE_CTRL around the entry to scanline 241 -/

theorem exec_tick_into_vblank {e : Byte} {s : State} (hs : s.halted = false) (hl : s.scanline.toNat = 240)
    (hc : 341 ≤ s.cycles.toNat + e.toNat) : exec (.tick e) s = .next { enterVblank s with
      cycles := BitVec.ofNat 9 (s.cycles.toNat + e.toNat - 341), out := Response.frame false } := by
  obtain ⟨t, h⟩ := execTick_completes e hs
  obtain ⟨-, ⟨hno, -⟩ | ⟨-, -, rfl⟩ | ⟨-, hno, -⟩ | ⟨-, hno, -⟩⟩ := execTick_next h
  · exact absurd hno hc.not_gt
  · exact h
  · omega
  · exact absurd hl hno

/-- On entry to scanline 241 VBLANK is set, so the enable transition alone decides (60_exceptions.md R188). -/
theorem retriggers_statusAtVblank {cfg : Config} (hbits : cfg.bitsDistinct) (old new status : Byte) :
    retriggers cfg old new (statusAtVblank cfg status) = (!nmiEnabled cfg old && nmiEnabled cfg new) := by
  obtain ⟨-, hne, -, -⟩ := hbits
  simp [retriggers, vblankSet, testBit_statusAtVblank hne]

/-- A byte with the enable bit 0 raises nothing (40_register_bank.md R101). -/
theorem retriggers_of_disabled {cfg : Config} {old new status : Byte} (h : nmiEnabled cfg new = false) :
    retriggers cfg old new status = false := by simp [retriggers, h]

/-- WRITE_CTRL first: the TICK samples the enable bit of the byte just written. -/
theorem runOps_writeCtrl_tick {d e : Byte} {s : State} (hs : s.halted = false) (hl : s.scanline.toNat = 240)
    (hc : 341 ≤ s.cycles.toNat + e.toNat) : ∃ t, runOps [.writeCtrl d, .tick e] s = .next t ∧
      t.nmi = (s.nmi || retriggers s.cfg s.ctrl d s.status || nmiEnabled s.cfg d) :=
  ⟨_, runOps_pair_next (exec_writeCtrl_live d hs) (exec_tick_into_vblank hs hl hc), rfl⟩

/-- TICK first: it samples the old enable bit, and the WRITE_CTRL finds VBLANK set. -/
theorem runOps_tick_writeCtrl {d e : Byte} {s : State} (hs : s.halted = false) (hbits : s.cfg.bitsDistinct)
    (hl : s.scanline.toNat = 240) (hc : 341 ≤ s.cycles.toNat + e.toNat) :
    ∃ t, runOps [.tick e, .writeCtrl d] s = .next t ∧
      t.nmi = (s.nmi || nmiEnabled s.cfg s.ctrl || !nmiEnabled s.cfg s.ctrl && nmiEnabled s.cfg d) := by
  refine ⟨_, runOps_pair_next (exec_tick_into_vblank hs hl hc) (exec_writeCtrl_live d hs), ?_⟩
  rw [← retriggers_statusAtVblank hbits s.ctrl d s.status]
  rfl

/-- Settles O53: the flag that each order leaves, with the old and the new enable bit put in. -/
theorem writeCtrlOrderAroundVblank : Obligations.WriteCtrlOrderAroundVblank := by
  intro d e s hs hbits hnmi hl hc
  obtain ⟨t₁, hrun₁, ht₁⟩ := runOps_writeCtrl_tick (d := d) hs hl hc
  obtain ⟨t₂, hrun₂, ht₂⟩ := runOps_tick_writeCtrl (d := d) hs hbits hl hc
  refine ⟨fun (hold : nmiEnabled s.cfg s.ctrl = false) (hnew : nmiEnabled s.cfg d = true) => ?_,
    fun (hold : nmiEnabled s.cfg s.ctrl = true) (hnew : nmiEnabled s.cfg d = false) => ?_⟩
  · exact ⟨⟨t₁, hrun₁, by simp [ht₁, hnew]⟩, t₂, hrun₂, by simp [ht₂, hold, hnew]⟩
  · exact ⟨⟨t₁, hrun₁, by simp [ht₁, hnmi, hnew, retriggers_of_disabled hnew]⟩, t₂, hrun₂, by simp [ht₂, hold]⟩

/-! ## Raising the interrupt again -/

theorem exec_nmiAck_live {s : State} (hs : s.halted = false) :
    exec .nmiAck s = .next { s with nmi := false, out := Response.none } := execNmiAck_next.2 ⟨hs, rfl⟩

/-- One round of R191: acknowledge, disable, enable. -/
def retriggerRound (d₀ d₁ : Byte) : List Instr := [.nmiAck, .writeCtrl d₀, .writeCtrl d₁]

/-- A round ends with the interrupt pending, and VBLANK as it was. -/
theorem runOps_retriggerRound {d₀ d₁ : Byte} {s : State} (hs : s.halted = false)
    (hvblank : s.status.getLsbD s.cfg.statusVblankBit.val = true) (hoff : d₀.getLsbD s.cfg.ctrlNmiBit.val = false)
    (hon : d₁.getLsbD s.cfg.ctrlNmiBit.val = true) : runOps (retriggerRound d₀ d₁) s =
      .next { s with ctrl := d₁, nmi := true, out := Response.none } := by
  have hdisable : retriggers s.cfg s.ctrl d₀ s.status = false := retriggers_of_disabled hoff
  have henable : retriggers s.cfg d₀ d₁ s.status = true := retriggers_iff.2 ⟨hoff, hon, hvblank⟩
  have hcompletes := runOps_cons_next.2 ⟨_, exec_nmiAck_live hs,
    runOps_pair_next (exec_writeCtrl_live d₀ hs) (exec_writeCtrl_live d₁ hs)⟩
  simpa [retriggerRound, storeCtrl, hdisable, henable] using hcompletes

/-- A round ends where the next can begin, so any number of them ends as one does. -/
theorem runOps_retriggerRounds {d₀ d₁ : Byte} (n : Nat) : ∀ s : State, s.halted = false →
    s.status.getLsbD s.cfg.statusVblankBit.val = true → d₀.getLsbD s.cfg.ctrlNmiBit.val = false →
    d₁.getLsbD s.cfg.ctrlNmiBit.val = true → runOps (List.replicate (n + 1) (retriggerRound d₀ d₁)).flatten s =
      .next { s with ctrl := d₁, nmi := true, out := Response.none } := by
  induction n with
  | zero => exact fun s hs hvblank hoff hon => runOps_retriggerRound hs hvblank hoff hon
  | succ n ih =>
    intro s hs hvblank hoff hon
    rw [List.replicate_succ, List.flatten_cons, runOps_append_of_next (runOps_retriggerRound hs hvblank hoff hon)]
    exact ih _ hs hvblank hoff hon

/-- Settles O54, by induction on the number of rounds. -/
theorem interruptRetriggersAnyNumberOfTimes : Obligations.InterruptRetriggersAnyNumberOfTimes :=
  fun _ _ n s hs hvblank hoff hon => ⟨_, runOps_retriggerRounds n s hs hvblank hoff hon, rfl⟩

end Sys2Proof.Proofs

namespace Sys2Proof.Proofs

open Sys2Proof Sys2Proof.Machine Sys2Proof.Safety

/-! ## The access after the last legal one -/

/-- A completed access stood where WRITE_DATA may and leaves `v` one step on (41_data_port.md R120, R123). -/
theorem exec_dataPort_advances {d : Byte} {s t : State}
    (h : exec (.writeData d) s = .next t ∨ exec .readData s = .next t) :
    t.halted = false ∧ WriteLegal s.v ∧ t.v = advanced s.cfg s.ctrl s.v := by
  rcases h with h | h
  · obtain ⟨hs, u, hu, rfl⟩ := execWriteData_next.1 h
    refine ⟨?_, busWrite_completes_iff.1 ⟨u, hu⟩, ?_⟩
    · rw [(busWrite_frame hu).1]; exact hs
    · rw [(busWrite_frame hu).1]; rfl
  · have hs := exec_next_live h
    obtain ⟨b, hb, ht⟩ := execReadData_cases h
    obtain ⟨hlegal, -⟩ := busRead_completes_iff.1 ⟨b, hb⟩
    obtain ⟨-, rfl⟩ | ⟨-, rfl⟩ := ht <;> exact ⟨hs, hlegal, rfl⟩

/-- Settles O37: the access has left `v` 1 or 32 past a legal address, so it stands in the window or past the palette,
where the bus has no target for either operation. -/
theorem runningOffTheEndFaults : Obligations.RunningOffTheEndFaults := by
  intro d d' s t h
  obtain ⟨hlive, hlegal, hv⟩ := exec_dataPort_advances h
  have hadv := advanced_toNat_by_bit s.cfg s.ctrl s.v
  rw [← hv] at hadv
  refine ⟨fun hlow hwindow => ?_, fun hpalette hlast => ?_⟩
  · have htop : t.v.toNat ≤ 0x3EFF := by split at hadv <;> omega
    have htarget := busTarget_window (m := t.mirroring) hwindow htop
    exact ⟨exec_readData_nothing hlive htarget, exec_writeData_nothing d' hlive htarget⟩
  · have hpast : 0x3F20 ≤ t.v.toNat := by
      obtain hend | hinc := hlast
      · split at hadv <;> omega
      · rw [if_pos hinc] at hadv
        omega
    have htarget := busTarget_past_palette (m := t.mirroring) hpast
    exact ⟨exec_readData_nothing hlive htarget, exec_writeData_nothing d' hlive htarget⟩

/-! ## Runs of TICKs that completed -/

/-- The equation of R163 for a run that completed, which a run of one TICK or more does on a live block only. -/
theorem runOps_ticks_next {es : List Byte} {s t : State} (hs : LegalPosition s)
    (h : runOps (es.map Instr.tick) s = .next t) : LegalPosition t ∧
      framePosition t + 89342 * framesCompleted es s = framePosition s + (es.map BitVec.toNat).sum := by
  cases es with
  | nil => cases h; exact ⟨hs, rfl⟩
  | cons e es =>
    obtain ⟨u, hu, -⟩ := runOps_cons_next.1 h
    obtain ⟨t', ht', hrun⟩ := runOps_ticks_framePosition (e :: es) s (exec_next_live hu) hs
    cases h.symm.trans ht'
    exact hrun

/-- A position within the frame is one cycle of one scanline. -/
theorem LegalPosition.counters_eq {s t : State} (hs : LegalPosition s) (ht : LegalPosition t)
    (h : framePosition s = framePosition t) : s.cycles = t.cycles ∧ s.scanline = t.scanline := by
  obtain ⟨hscyc, -⟩ := hs
  obtain ⟨htcyc, -⟩ := ht
  unfold framePosition at h
  exact ⟨BitVec.eq_of_toNat_eq (by omega), BitVec.eq_of_toNat_eq (by omega)⟩

/-- Settles O48: both final positions are the remainder of one sum. -/
theorem splitTicksReachTheSamePosition : Obligations.SplitTicksReachTheSamePosition := by
  intro es es' s t t' hcyc hline hsum ht ht'
  obtain ⟨hlegal, hpos⟩ := runOps_ticks_next ⟨hcyc, hline⟩ ht
  obtain ⟨hlegal', hpos'⟩ := runOps_ticks_next ⟨hcyc, hline⟩ ht'
  have hlt := hlegal.framePosition_lt
  have hlt' := hlegal'.framePosition_lt
  exact hlegal.counters_eq hlegal' (by omega)

/-! ## The interrupt flag along a run of TICKs -/

/-- A legal TICK rolls out of the last scanline exactly when it carries the position across 89342, the frame's end. -/
theorem rolls_over_wrap_iff {e : Byte} {s : State} (hs : LegalPosition s) :
    (341 ≤ s.cycles.toNat + e.toNat ∧ 261 ≤ s.scanline.toNat) ↔ 89342 ≤ framePosition s + e.toNat := by
  obtain ⟨hcyc, hline⟩ := hs
  unfold framePosition
  omega

/-- TICK clears a pending interrupt at the frame wrap and nowhere else (60_exceptions.md R188). -/
theorem tick_clears_nmi_iff {e : Byte} {s t : State} (hs : LegalPosition s) (h : exec (.tick e) s = .next t)
    (hnmi : s.nmi = true) : t.nmi = false ↔ 89342 ≤ framePosition s + e.toNat := by
  obtain ⟨-, hclear⟩ := interruptRaisedAndClearedInTwoPlaces (.tick e) s t h
  rw [hclear hnmi, ← rolls_over_wrap_iff hs]
  simp

/-- TICK raises no interrupt short of the entry to scanline 241 (60_exceptions.md R188). -/
theorem tick_keeps_nmi_clear {e : Byte} {s t : State} (hs : LegalPosition s) (h : exec (.tick e) s = .next t)
    (hnmi : s.nmi = false) (hbefore : framePosition s + e.toNat < 82181) : t.nmi = false := by
  obtain ⟨hraise, -⟩ := interruptRaisedAndClearedInTwoPlaces (.tick e) s t h
  rw [← Bool.not_eq_true, hraise hnmi]
  rintro (⟨_, ⟨⟩, hroll, hl, -⟩ | ⟨_, ⟨⟩, -⟩)
  obtain ⟨-, hentry⟩ := (rolls_into_vblank_iff hs).1 ⟨hroll, hl⟩
  exact absurd hentry hbefore.not_ge

/-- Settles O52, by induction on the run from its last TICK: the flag before that TICK is 1 before the wrap and 0 after
it, and the TICK keeps it, clears it at the wrap, or stays short of the next vblank entry. -/
theorem pendingInterruptIsLostAtTheWrap : Obligations.PendingInterruptIsLostAtTheWrap := by
  intro es s t hnmi hcyc hvblank hline h
  have hs : LegalPosition s := ⟨hcyc, hline⟩
  change (framePosition s + _ < 89342 → _) ∧ (89342 ≤ framePosition s + _ → framePosition s + _ < 171523 → _)
  induction es using List.reverseRecOn generalizing t with
  | nil =>
    cases h
    rw [List.map_nil, List.sum_nil, Nat.add_zero]
    exact ⟨fun _ => hnmi, fun hwrapped => absurd hwrapped hs.framePosition_lt.not_ge⟩
  | append_singleton es e ih =>
    rw [List.map_append, List.sum_append, List.map_singleton, List.sum_singleton]
    rw [List.map_append, List.map_singleton] at h
    obtain ⟨u, hu, hlast⟩ := runOps_append_next.1 h
    rw [runOps_singleton] at hlast
    obtain ⟨hlegal, hpos⟩ := runOps_ticks_next hs hu
    have hlt := hlegal.framePosition_lt
    obtain ⟨hpending, hlost⟩ := ih u hu
    by_cases hwrapped : framePosition s + (es.map BitVec.toNat).sum < 89342
    · have hclear := tick_clears_nmi_iff hlegal hlast (hpending hwrapped)
      refine ⟨fun hbefore => ?_, fun hafter _ => hclear.2 (by omega)⟩
      rw [← Bool.not_eq_false, hclear]
      omega
    · refine ⟨fun hbefore => by omega, fun _ hnext => ?_⟩
      exact tick_keeps_nmi_clear hlegal hlast (hlost (by omega) (by omega)) (by omega)

/-! ## The frame position and the other operations -/

/-- The two frame counters replaced. -/
def withFramePosition (c l : BitVec 9) (s : State) : State := { s with cycles := c, scanline := l }

/-- No operation but TICK sees the frame counters (70_reset_and_hazards.md R232). -/
theorem exec_withFramePosition {i : Instr} (s : State) (c l : BitVec 9) (htick : ∀ e, i ≠ .tick e) :
    exec i (withFramePosition c l s) = mapNext (withFramePosition c l) (exec i s) := by
  have hdone : PassesComplete (withFramePosition c l) := fun _ _ => rfl
  cases i
  case tick e => exact absurd rfl (htick e)
  case writeData d =>
    exact execWriteData_mapNext hdone rfl (busWrite_mapNext d rfl (fun _ => rfl) (fun _ => rfl)) rfl (fun _ _ => rfl)
  case readData => exact execReadData_mapNext hdone rfl rfl rfl rfl rfl (fun _ _ => rfl)
  case oamDma bs => exact execOamDma_mapNext hdone rfl (fun _ _ => rfl)
  all_goals refine ifRunning_mapNext (g := withFramePosition c l) (s := s) rfl ?_
  case writeScroll d => cases hw : s.wScroll <;> simp [storeScroll, complete, withFramePosition, hw]
  case writeAddr d => cases hw : s.wAddr <;> simp [storeAddr, complete, withFramePosition, hw]
  all_goals rfl

/-- Settles O57: replacing the counters before an operation that is no TICK is replacing them after. -/
theorem noAccessIsGatedByTheFramePosition : Obligations.NoAccessIsGatedByTheFramePosition := by
  intro i s c l htick
  have h := exec_withFramePosition s c l htick
  unfold withFramePosition at h
  rw [h]
  cases exec i s <;> rfl

end Sys2Proof.Proofs
